-- ==== Sys2Proof/Word.lean ====
section
/-! DEFINITION. The three widths of the Checksum Engine (00_scope.md R7, R8; 30_encoding.md R36). Every value is an
unsigned bit vector; the block has no signed quantity. -/

namespace Sys2Proof

/-- A byte: the operand of `ABS`, the register `SUM`, an element of a buffer (00_scope.md R7). -/
abbrev Byte := BitVec 8

/-- A 16-bit value: the register `CRC` and the output port `dout` (10_state.md R10; 30_encoding.md R43). -/
abbrev Half := BitVec 16

/-- A command word `cmd[10:0] = {op, din}` (30_encoding.md R36). -/
abbrev CommandWord := BitVec 11

/-- The opcode field `op`, 3 bits (30_encoding.md R36). -/
abbrev Opcode := BitVec 3

end Sys2Proof
end

