-- ==== Sys2Proof/Syntax.lean ====
section
/-! DEFINITION. The operations of the Checksum Engine, one constructor per row of spec/opcode_table.json
(30_encoding.md R37; the two reserved rows are R41). -/

namespace Sys2Proof

/-- What a command word decodes to. -/
inductive Instr where
  /-- `INIT`: start a new buffer (40_init.md R50). -/
  | init
  /-- `ABS d`: absorb the byte `d` (41_absorb.md R55). -/
  | abs (d : Byte)
  /-- `RDSUM`: output the sum (42_read.md R57). -/
  | rdsum
  /-- `RDCRC`: output the CRC whole (42_read.md R58). -/
  | rdcrc
  /-- `RDCL`: output the low byte of the CRC (42_read.md R59). -/
  | rdcl
  /-- `RDCH`: output the high byte of the CRC (42_read.md R60). -/
  | rdch
  /-- The reserved opcode 6, command words 0x600 to 0x6FF (30_encoding.md R41). -/
  | reserved6
  /-- The reserved opcode 7, command words 0x700 to 0x7FF (30_encoding.md R41). -/
  | reserved7
deriving DecidableEq, Repr

end Sys2Proof
end

