-- ==== Sys2Proof/WellFormed.lean ====
section
/-! DEFINITION. Which instructions a host may present (70_reset_and_hazards.md R99: "any of the 1536 words with `op` 0 to 5";
30_encoding.md R41: "A host must not present" the other two). Operand widths need no check, the types carry them. -/

namespace Sys2Proof

/-- An instruction that has a meaning in the spec: one of the six operations, with any operand byte. -/
def Instr.wellFormed : Instr → Bool
  | .init => true
  | .abs _ => true
  | .rdsum => true
  | .rdcrc => true
  | .rdcl => true
  | .rdch => true
  | .reserved6 => false
  | .reserved7 => false

end Sys2Proof
end

