-- ==== Sys2Proof/Decode.lean ====
section
/-! DEFINITION. The command word and its decoder and encoder (30_encoding.md R36 to R42, R48, R49). Decoding is total over the
2048 command words; the two reserved opcodes decode, by name, to instructions that are not well formed. -/

namespace Sys2Proof

/-- `op = cmd[10:8]` (30_encoding.md R36). -/
def opField (cmd : CommandWord) : Opcode := cmd.extractLsb' 8 3

/-- `din = cmd[7:0]`, all 8 bits, bit 7 the most significant (30_encoding.md R38; 20_memory.md R26). -/
def dinField (cmd : CommandWord) : Byte := cmd.extractLsb' 0 8

/-- `{op, din}` (30_encoding.md R36). -/
def makeCommand (op : Opcode) (din : Byte) : CommandWord := op ++ din

/-- 30_encoding.md R48. It looks at `op` only; `din` is the operand of `ABS` and is ignored elsewhere (R39). -/
def decode (cmd : CommandWord) : Instr :=
  match (opField cmd).toNat with
  | 0 => .init
  | 1 => .abs (dinField cmd)
  | 2 => .rdsum
  | 3 => .rdcrc
  | 4 => .rdcl
  | 5 => .rdch
  | 6 => .reserved6
  | _ => .reserved7

/-- The canonical command word of an operation (30_encoding.md R40, R48). The reserved opcodes have none: they are not among
the 261 canonical words. DEDUCED, log 14. -/
def encode : Instr → Option CommandWord
  | .init => some (makeCommand 0 0)
  | .abs d => some (makeCommand 1 d)
  | .rdsum => some (makeCommand 2 0)
  | .rdcrc => some (makeCommand 3 0)
  | .rdcl => some (makeCommand 4 0)
  | .rdch => some (makeCommand 5 0)
  | .reserved6 => none
  | .reserved7 => none

/-- A canonical word: `din = 0x00`, or an `ABS` (30_encoding.md R40), of one of the six operations. -/
def isCanonical (cmd : CommandWord) : Bool :=
  opField cmd == 1 || (decide ((opField cmd).toNat ≤ 5) && dinField cmd == 0)

/-- A command word read from a wider container of `nbits` bits: "the bits above bit 10 are not part of the command word and are
not presented to the block" (30_encoding.md R49). DEDUCED, log 9. -/
def commandOfContainer (nbits w : Nat) : CommandWord := BitVec.ofNat 11 (w % 2 ^ nbits)

/-- What the decoder reads from an instruction whose bits are `w`, numbered as spec/opcode_table.json numbers them. -/
def decodeTableWord (nbits w : Nat) : Option Instr := some (decode (commandOfContainer nbits w))

end Sys2Proof
end

