-- ==== Sys2Proof/Config.lean ====
section
/-! DEFINITION. The parameters of the two check values. The spec fixes all of them (00_scope.md R5, R6); none is
configurable, and the only parameters it leaves open are cycle counts that no rule reads (R8), which the model leaves out.
There is no free value: "no value left to the implementation" (R9). -/

namespace Sys2Proof.Config

/-- The polynomial `0x1021`, bits 12, 5 and 0 set (00_scope.md R5; 41_absorb.md R53). -/
def polynomial : Half := 0x1021#16

/-- The polynomial with its implied bit 16, as 41_absorb.md R56 (b) uses it. -/
def polynomial17 : BitVec 17 := 0x11021#17

/-- The CRC's initial value (00_scope.md R5: "initial value 0"). -/
def crcInit : Half := 0x0000#16

/-- The sum over no bytes (00_scope.md R6; 40_init.md R50). -/
def sumInit : Byte := 0x00#8

/-- The rounds per byte (41_absorb.md R54: "exactly 8 times"). -/
def roundsPerByte : Nat := 8

/-- Bytes in the payload of a block write (43_functions.md R74). -/
def blockLength : Nat := 256

/-- Bytes in the payload of a sector write (43_functions.md R74). -/
def sectorLength : Nat := 4096

end Sys2Proof.Config
end

