-- ==== Sys2Proof/Machine/Flags.lean ====
section
/-! DEFINITION. The block has no flags, no condition codes and no status register (10_state.md R14), so no meaning writes one.
What looks like a flag is bit 16 of a round's 17-bit intermediate: it is "consumed inside the round that produces it and is not
kept" (R14, R15). This file holds that test and the discarded carry of the sum. -/

namespace Sys2Proof.Machine

/-- "if bit 16 (0x10000) is set": `(t & 0x10000) != 0` for the shifted value of a round (41_absorb.md R53). -/
def bit16 (t : BitVec 17) : Bool := (t &&& 0x10000#17) != 0

/-- The ninth bit of `s + d`, "discarded and kept nowhere" (41_absorb.md R51). No meaning reads it. -/
def sumCarry (s d : Byte) : Bool := decide (256 ≤ s.toNat + d.toNat)

end Sys2Proof.Machine
end

