-- ==== Sys2Proof/Machine/Operands.lean ====
section
/-! DEFINITION. The forms in which a value leaves the block, and the 16-bit result on a byte-wide link. The one operand form, the
byte of `ABS`, is `dinField` in Decode.lean (30_encoding.md R38). -/

namespace Sys2Proof.Machine

/-- `zext_16` of an 8-bit result: it occupies `dout[7:0]`, and `dout[15:8]` is zero (30_encoding.md R43). -/
def zext16 (b : Byte) : Half := b.setWidth 16

/-- Lane 0, `CRC[7:0]` (20_memory.md R27). -/
def lane0 (v : Half) : Byte := v.extractLsb' 0 8

/-- Lane 1, `CRC[15:8]` (20_memory.md R27). -/
def lane1 (v : Half) : Byte := v.extractLsb' 8 8

/-- The bytes of a 16-bit result on a byte-wide link, low byte first (43_functions.md R72; 20_memory.md R25). -/
def leBytes (v : Half) : List Byte := [lane0 v, lane1 v]

/-- `from_le([b0, b1]) = b1 * 256 + b0` (43_functions.md R72). -/
def fromLe (b0 b1 : Byte) : Half := BitVec.ofNat 16 (b1.toNat * 256 + b0.toNat)

end Sys2Proof.Machine
end

