-- ==== Sys2Proof/Machine/Checksum.lean ====
section
/-! DEFINITION. The arithmetic of the two check values: the per-byte steps of 41_absorb.md, its equivalent forms, and the
whole-buffer functions of 43_functions.md. Each follows the pseudocode of its rule. -/

namespace Sys2Proof.Machine

/-- `(s + d) mod 256` (41_absorb.md R51): added exactly, then narrowed. -/
def sumStep (s d : Byte) : Byte := BitVec.ofNat 8 ((s.toNat + d.toNat) % 256)

/-- `a ^ (d << 8)` (41_absorb.md R52). -/
def crcXorin (a : Half) (d : Byte) : Half := a ^^^ (d.setWidth 16 <<< 8)

/-- One round (41_absorb.md R53): `t = a << 1` has 17 bits; if its bit 16 is set, XOR with the polynomial; mask to 16 bits. -/
def crcRound (a : Half) : Half :=
  let t : BitVec 17 := a.setWidth 17 <<< 1
  if bit16 t then (t ^^^ Config.polynomial.setWidth 17).setWidth 16 else t.setWidth 16

/-- `n` rounds, one after the other. -/
def crcRounds : Nat → Half → Half
  | 0, a => a
  | n + 1, a => crcRounds n (crcRound a)

/-- The byte is XORed in once, then 8 rounds follow, whatever its value (41_absorb.md R54). -/
def crcByte (a : Half) (d : Byte) : Half := crcRounds Config.roundsPerByte (crcXorin a d)

/-- The inverse of a round: "if bit 0 of the result `r` is 1 then `a = ((r ^ 0x1021) >> 1) | 0x8000`, else `a = r >> 1`"
(95_test_vectors.md section 3.1). -/
def crcUnround (r : Half) : Half :=
  if r.getLsbD 0 then ((r ^^^ Config.polynomial) >>> 1) ||| 0x8000#16 else r >>> 1

/-- 41_absorb.md R56 (a): the test before the shift. -/
def crcRoundTestFirst (a : Half) : Half :=
  (a <<< 1) ^^^ (if a.getLsbD 15 then Config.polynomial else 0x0000#16)

/-- 41_absorb.md R56 (b): XOR with the 17-bit polynomial and no mask. The result still has 17 bits. -/
def crcRoundNoMask (a : Half) : BitVec 17 :=
  let t : BitVec 17 := a.setWidth 17 <<< 1
  if bit16 t then t ^^^ Config.polynomial17 else t

/-- The table `T[i] = crc_byte(0x0000, i)` of 41_absorb.md R56 (c). -/
def crcTable (i : Byte) : Half := crcByte 0x0000#16 i

/-- 41_absorb.md R56 (c): `((a << 8) & 0xFFFF) ^ T[a[15:8] ^ d]`. -/
def crcByteTable (a : Half) (d : Byte) : Half := (a <<< 8) ^^^ crcTable (lane1 a ^^^ d)

/-- The loop of `additiveChecksum` from a starting value (43_functions.md, under R62). -/
def sumFrom (s0 : Byte) (data : List Byte) : Byte := data.foldl sumStep s0

/-- The loop of `crc16Xmodem` from a starting value, bytes in ascending index order (43_functions.md, under R62;
20_memory.md R23). -/
def crcFrom (a0 : Half) (data : List Byte) : Half := data.foldl crcByte a0

/-- "sum of all bytes modulo 256" (43_functions.md R61). -/
def additiveChecksum (data : List Byte) : Byte := sumFrom Config.sumInit data

/-- `crc16Xmodem` (43_functions.md R62): initial value 0, no final XOR, no reflection. -/
def crc16Xmodem (data : List Byte) : Half := crcFrom Config.crcInit data

/-- The byte-wise exclusive OR of two buffers (43_functions.md R67). -/
def xorBuffers (a b : List Byte) : List Byte := List.zipWith (· ^^^ ·) a b

end Sys2Proof.Machine
end

