-- ==== Sys2Proof/Machine/State.lean ====
section
/-! DEFINITION. The state of the Checksum Engine and what stands on its ports (10_state.md; 30_encoding.md section 1). The block
has no memory (20_memory.md R21), no program counter (10_state.md R13), no flags and no control registers (R14). -/

namespace Sys2Proof.Machine

/-- What the input ports carry on one rising edge of `clk` (30_encoding.md section 1 and R44). One `Edge` is one edge; `clk`
itself has no field. DESIGN CHOICE, log 1. -/
structure Edge where
  /-- `rst`, active high (70_reset_and_hazards.md R87). -/
  rst : Bool
  /-- `cmd_valid`: the host presents a command word. -/
  cmdValid : Bool
  /-- `cmd_ready`: the block can accept on this edge. When it is high is timing, which the spec leaves open (00_scope.md R8);
  here it is an unconstrained value of the edge. DESIGN CHOICE, log 2. -/
  cmdReady : Bool
  /-- `{op, din}`: the 11 wires of the two ports `op` and `din` (R36). -/
  cmd : CommandWord
deriving DecidableEq, Repr

/-- An edge on which the host presents nothing. -/
def Edge.quiet : Edge := { rst := false, cmdValid := false, cmdReady := true, cmd := 0 }

/-- An edge on which the host presents `w` and the block accepts it (30_encoding.md R44). -/
def Edge.accept (w : CommandWord) : Edge := { rst := false, cmdValid := true, cmdReady := true, cmd := w }

/-- An edge on which the host presents `w` and the block is not ready for it. -/
def Edge.wait (w : CommandWord) : Edge := { rst := false, cmdValid := true, cmdReady := false, cmd := w }

/-- An edge with `rst = 1` and no command word presented. -/
def Edge.reset : Edge := { rst := true, cmdValid := false, cmdReady := false, cmd := 0 }

/-- Why the machine stops with a fault: never. "The block raises no synchronous exception [...] none traps, faults, hangs or
returns an error" (60_exceptions.md R77), so the type has no constructor. -/
inductive Fault where
deriving DecidableEq, Repr

/-- Why the model gives a step no meaning. -/
inductive Refusal where
  /-- Raised by an arm of `exec` whose instruction has no meaning in the model yet. Safe: nothing follows from the step. -/
  | notModelled (mnemonic : String)
  /-- Raised by the meanings of the two reserved opcodes, `op` being 6 or 7. Safe: 30_encoding.md R41 says that a model refuses
  them, and no theorem holds of what follows (93_implementation_defined.md U1). -/
  | reservedOpcode (op : Opcode)
  /-- Raised by `clockEdge` when the host changes the presented command word before it is accepted. Safe: "what the block then
  accepts is not defined by this spec" (70_reset_and_hazards.md R96; 93_implementation_defined.md U5). -/
  | brokenHandshake
deriving DecidableEq, Repr

/-- The machine between two clock edges. `crc` and `sum` are the whole architectural state (10_state.md R12); the other three
fields are the ports and the outside world. -/
structure State where
  /-- `CRC`, 16 bits (10_state.md R10). -/
  crc : Half
  /-- `SUM`, 8 bits (10_state.md R11). -/
  sum : Byte
  /-- `dout` with `dout_valid` in the step just taken: `some v` when a read drove it, absent otherwise (30_encoding.md R43). Not
  a register of the block: no step reads it (10_state.md R16). DESIGN CHOICE, log 3. -/
  dout : Option Half
  /-- The command word that the host has presented and the block has not yet accepted: what `op` and `din` must still carry
  while `cmd_valid = 1` (70_reset_and_hazards.md R99). Not a register of the block. DESIGN CHOICE, log 4. -/
  held : Option CommandWord
  /-- What the ports will carry on the coming edges, the next one first. DESIGN CHOICE, log 1. -/
  input : List Edge
deriving DecidableEq, Repr

/-- The machine right after reset (10_state.md R18; 70_reset_and_hazards.md R87): both registers 0, nothing driven; the model's
own fields empty (DESIGN CHOICE, logs 1 and 4). -/
def State.reset : State :=
  { crc := 0x0000#16, sum := 0x00#8, dout := none, held := none, input := [] }

end Sys2Proof.Machine
end

