-- ==== Sys2Proof/Machine/Ops.lean ====
section
/-! DEFINITION. The named operations on the registers and on the output port; every meaning is built from these. There is no
memory operation (20_memory.md R21), and neither an operation that takes an exception nor one that returns from one: the block has
no trap entry and no trap return (60_exceptions.md R77, R81, R82). Reset is the one event beside the operations. -/

namespace Sys2Proof.Machine

/-- Both accumulators at the starting values of the two functions (40_init.md R50; 70_reset_and_hazards.md R87). -/
def State.clear (s : State) : State := { s with crc := Config.crcInit, sum := Config.sumInit }

/-- Both accumulators after one byte, each from its own old value (41_absorb.md R55). -/
def State.absorb (s : State) (d : Byte) : State := { s with crc := crcByte s.crc d, sum := sumStep s.sum d }

/-- `out <- v`: drive `dout` with `v` and assert `dout_valid` for this step (30_encoding.md R43). The output is there from the
accepting edge on, and no later reset withdraws it (DESIGN CHOICE, log 18). -/
def State.drive (s : State) (v : Half) : State := { s with dout := some v }

/-- A step that does not assert `dout_valid`: the value on `dout` is then not defined, so there is none (30_encoding.md R43;
93_implementation_defined.md U3). -/
def State.release (s : State) : State := { s with dout := none }

/-- The effect of an edge with `rst = 1`: both registers cleared, nothing driven, and what the host was presenting is not
accepted (70_reset_and_hazards.md R87, R88). That the next word presented may be another one is DEDUCED, log 6. No operation
is in progress at this edge, since an accepted one was complete at its own: that R87's "abandoned without effect" then finds nothing
to abandon is a DESIGN CHOICE, log 18. -/
def State.applyReset (s : State) : State := { s.clear.release with held := none }

/-- An edge on which nothing is accepted: "the state does not change" (30_encoding.md R44). A word that was presented and not
accepted stays on the port; a withdrawn one is not taken (DEDUCED, log 5). -/
def State.noAccept (s : State) (e : Edge) : State :=
  { s.release with held := if e.cmdValid then some e.cmd else none }

/-- The host changes `op` or `din` while `cmd_valid = 1`, before the word is accepted (70_reset_and_hazards.md R96, R99). -/
def breaksHandshake (held : Option CommandWord) (e : Edge) : Bool :=
  match held with
  | none => false
  | some w => e.cmdValid && e.cmd != w

end Sys2Proof.Machine
end

