-- ==== Sys2Proof/Machine/Absorb.lean ====
section
/-! DEFINITION. The meaning of `ABS` (41_absorb.md). -/

namespace Sys2Proof.Machine

/-- `CRC <- crc_byte(CRC, d)`, `SUM <- sum_step(SUM, d)`, no output (41_absorb.md R55). -/
def execAbs (d : Byte) (s : State) : Host.Outcome State Fault Refusal := .next (s.absorb d).release

end Sys2Proof.Machine
end

