-- ==== Sys2Proof/Machine/Init.lean ====
section
/-! DEFINITION. The meaning of `INIT` (40_init.md). -/

namespace Sys2Proof.Machine

/-- `CRC <- 0x0000`, `SUM <- 0x00`, no output (40_init.md R50). -/
def execInit (s : State) : Host.Outcome State Fault Refusal := .next s.clear.release

end Sys2Proof.Machine
end

