-- ==== Sys2Proof/Machine/Read.lean ====
section
/-! DEFINITION. The meanings of the four reads (42_read.md). None changes a register. -/

namespace Sys2Proof.Machine

/-- `out <- zext_16(SUM)` (42_read.md R57). -/
def execRdsum (s : State) : Host.Outcome State Fault Refusal := .next (s.drive (zext16 s.sum))

/-- `out <- CRC` (42_read.md R58). -/
def execRdcrc (s : State) : Host.Outcome State Fault Refusal := .next (s.drive s.crc)

/-- `out <- zext_16(CRC[7:0])` (42_read.md R59). -/
def execRdcl (s : State) : Host.Outcome State Fault Refusal := .next (s.drive (zext16 (lane0 s.crc)))

/-- `out <- zext_16(CRC[15:8])` (42_read.md R60). -/
def execRdch (s : State) : Host.Outcome State Fault Refusal := .next (s.drive (zext16 (lane1 s.crc)))

end Sys2Proof.Machine
end

