-- ==== Sys2Proof/Machine/Reserved.lean ====
section
/-! DEFINITION. The reserved opcodes (30_encoding.md R41: "This spec defines no behaviour for them [...] A model should refuse
them"). They are no no-operation and are not guaranteed to leave the registers unchanged, so there is no effect to model (log 7). -/

namespace Sys2Proof.Machine

/-- Opcode 6, command words 0x600 to 0x6FF (30_encoding.md R41; 93_implementation_defined.md U1). -/
def execReserved6 (_s : State) : Host.Outcome State Fault Refusal := .refused (.reservedOpcode 6)

/-- Opcode 7, command words 0x700 to 0x7FF (30_encoding.md R41; 93_implementation_defined.md U1). -/
def execReserved7 (_s : State) : Host.Outcome State Fault Refusal := .refused (.reservedOpcode 7)

end Sys2Proof.Machine
end

