-- ==== Sys2Proof/Machine/Dispatch.lean ====
section
/-! DEFINITION. One arm per row of spec/opcode_table.json. -/

namespace Sys2Proof.Machine

def exec (i : Instr) (s : State) : Host.Outcome State Fault Refusal :=
  match i with
  | .init => Sys2Proof.Machine.execInit s
  | .abs d => Sys2Proof.Machine.execAbs d s
  | .rdsum => Sys2Proof.Machine.execRdsum s
  | .rdcrc => Sys2Proof.Machine.execRdcrc s
  | .rdcl => Sys2Proof.Machine.execRdcl s
  | .rdch => Sys2Proof.Machine.execRdch s
  | .reserved6 => Sys2Proof.Machine.execReserved6 s
  | .reserved7 => Sys2Proof.Machine.execReserved7 s

end Sys2Proof.Machine
end

