-- ==== Sys2Proof/Machine/Port.lean ====
section
/-! DEFINITION. The command port: what one rising edge of `clk` does (30_encoding.md R44; 70_reset_and_hazards.md R87, R88, R96). -/

namespace Sys2Proof.Machine

/-- A command word is accepted on an edge with `rst = 0`, `cmd_valid = 1` and `cmd_ready = 1` (30_encoding.md R44). -/
def Edge.accepts (e : Edge) : Bool := !e.rst && e.cmdValid && e.cmdReady

/-- One rising edge of `clk`. Reset has precedence over a command word (R88), also
over a reserved or a changed one (DESIGN CHOICE, log 19); a host that changed the presented word before it
was accepted has broken the handshake (R96); an accepted word has the whole effect of its operation (R44, R45); on any other edge
nothing is accepted.

The effect of an accepted word is given whole at the accepting edge, its output included, as 30_encoding.md R44 and R98 have it. So
a reset in the `T_OP` cycles after an accepted read does not withdraw that read's output, although R87 calls an operation in progress
at a reset abandoned: DESIGN CHOICE, log 18. -/
def clockEdge (e : Edge) (s : State) : Host.Outcome State Fault Refusal :=
  if e.rst then .next s.applyReset
  else if breaksHandshake s.held e then .refused .brokenHandshake
  else if e.accepts then exec (decode e.cmd) { s with held := none }
  else .next (s.noAccept e)

/-- The next edge, and the state in which it arrives. Where nothing more is listed, the host presents nothing
(70_reset_and_hazards.md R98; DESIGN CHOICE, log 8). -/
def nextEdge (s : State) : Edge × State :=
  match s.input with
  | [] => (Edge.quiet, s)
  | e :: rest => (e, { s with input := rest })

/-- The host presents the command word in a container of `nbits` bits on the next edge, and the block accepts it: the port
carries no other word before it (log 10). -/
def placeCommand (s : State) (nbits w : Nat) : State :=
  { s with held := none, input := Edge.accept (commandOfContainer nbits w) :: s.input }

end Sys2Proof.Machine
end

