-- ==== Sys2Proof/Machine/Step.lean ====
section
/-! DEFINITION. One step: one rising edge of `clk`, taken from the list of what the ports will carry. -/

namespace Sys2Proof.Machine

/-- The next clock edge. -/
def step (s : State) : Host.Outcome State Fault Refusal := clockEdge (nextEdge s).1 (nextEdge s).2

/-- `s` with the instruction of `nbits` bits `w` presented on the next edge and accepted there. -/
def State.withFetchWord (s : State) (nbits w : Nat) : State := placeCommand s nbits w

end Sys2Proof.Machine
end

