-- ==== Sys2Proof/Machine/Integers.lean ====
section
/-! DEFINITION. The arithmetic once more over unbounded integers, as the notation of 00_scope.md section 5 defines the operators
and as the pseudocode of 41_absorb.md and the script of 95_test_vectors.md section 5 write it. The bit-vector functions of
Checksum.lean are compared with these. -/

namespace Sys2Proof.Machine

/-- `(s + d) mod 256` (41_absorb.md R51). -/
def sumStepInt (s d : Nat) : Nat := (s + d) % 256

/-- `a ^ (d << 8)` (41_absorb.md R52). -/
def crcXorinInt (a d : Nat) : Nat := a ^^^ (d * 2 ^ 8)

/-- `t = a << 1; if (t & 0x10000) != 0 then (t ^ 0x1021) & 0xFFFF else t` (41_absorb.md R53). -/
def crcRoundInt (a : Nat) : Nat :=
  let t := a * 2
  if t &&& 0x10000 ≠ 0 then (t ^^^ 0x1021) &&& 0xFFFF else t

/-- `r = crc_xorin(a, d); repeat 8 times: r = crc_round(r)` (41_absorb.md R54). -/
def crcByteInt (a d : Nat) : Nat := Nat.repeat crcRoundInt 8 (crcXorinInt a d)

end Sys2Proof.Machine
end

