-- ==== Sys2Proof/Machine/Pseudo.lean ====
section
/-! DEFINITION. The pseudo-instructions (30_encoding.md R47): macros that the assembler, running on the host, expands before
anything reaches the block; and the presentation of a program to the port. -/

namespace Sys2Proof.Machine

/-- `ABSN data`: one `ABS` per byte, in ascending index order (30_encoding.md R47; 20_memory.md R23). -/
def absN (data : List Byte) : List Instr := data.map Instr.abs

/-- `EMITLE`: `RDCL`, `RDCH`, the wire order (30_encoding.md R47; 20_memory.md R25). -/
def emitLe : List Instr := [.rdcl, .rdch]

/-- `SUM8 data`: `INIT`, `ABSN data`, `RDSUM` (30_encoding.md R47). -/
def sum8 (data : List Byte) : List Instr := .init :: (absN data ++ [.rdsum])

/-- `CRC16 data`: `INIT`, `ABSN data`, `RDCRC` (30_encoding.md R47). -/
def crc16 (data : List Byte) : List Instr := .init :: (absN data ++ [.rdcrc])

/-- `CRC16LE data`: `INIT`, `ABSN data`, `RDCL`, `RDCH` (30_encoding.md R47). -/
def crc16Le (data : List Byte) : List Instr := .init :: (absN data ++ emitLe)

/-- The canonical command words of a program, in order (30_encoding.md R46, R49). -/
def commandWords (prog : List Instr) : List CommandWord := prog.filterMap encode

/-- A program presented one word an edge, each accepted at once. -/
def presentWords (ws : List CommandWord) : List Edge := ws.map Edge.accept

end Sys2Proof.Machine
end

