-- ==== Sys2Proof/Machine/Assembler.lean ====
section
/-! DEFINITION. The assembler's text (30_encoding.md R46), its pseudo-instructions (R47) and the listing of a command word (R49).
It runs on the host; a text is a list of characters. Spacing, letter case of hexadecimal digits and the semicolon inside quotes are
DESIGN CHOICES, logs 12 and 13. -/

namespace Sys2Proof.Machine

/-- Why a text does not assemble. -/
inductive AsmError where
  /-- The line's first word is no mnemonic of R37 and no pseudo-instruction of R47. -/
  | unknownMnemonic
  /-- The operand is missing or is no literal of R46 or R47. -/
  | badOperand
  /-- A byte literal above 255: "an assembly error, not a truncation" (30_encoding.md R46). -/
  | outOfRange
  /-- An operation without operand is followed by something. -/
  | extraText
deriving DecidableEq, Repr

/-- The value of a digit in the given base, 10 or 16. -/
def digitValue (base : Nat) (c : Char) : Option Nat :=
  let n := c.toNat
  let v :=
    if 48 ≤ n ∧ n ≤ 57 then n - 48
    else if 65 ≤ n ∧ n ≤ 70 then n - 55
    else if 97 ≤ n ∧ n ≤ 102 then n - 87
    else 16
  if v < base then some v else none

/-- The value of a string of digits read on from `acc`; none where a character is no digit. -/
def digitsValue (base : Nat) : Nat → List Char → Option Nat
  | acc, [] => some acc
  | acc, c :: cs =>
    match digitValue base c with
    | none => none
    | some v => digitsValue base (acc * base + v) cs

/-- A number of at least one digit that fits a byte. -/
def byteOfDigits (base : Nat) (cs : List Char) : Except AsmError Byte :=
  match cs, digitsValue base 0 cs with
  | [], _ => .error .badOperand
  | _ :: _, none => .error .badOperand
  | _ :: _, some n => if n < 256 then .ok (BitVec.ofNat 8 n) else .error .outOfRange

/-- A byte literal: hexadecimal, decimal, or one printable ASCII character in single quotes (30_encoding.md R46). -/
def byteLiteral (cs : List Char) : Except AsmError Byte :=
  match cs with
  | ['\'', c, '\''] =>
    if 0x20 ≤ c.toNat ∧ c.toNat ≤ 0x7E then .ok (BitVec.ofNat 8 c.toNat) else .error .badOperand
  | '0' :: 'x' :: ds => byteOfDigits 16 ds
  | ds => byteOfDigits 10 ds

/-- A text without the spaces at its two ends. -/
def trimSpaces (cs : List Char) : List Char :=
  ((cs.dropWhile (· == ' ')).reverse.dropWhile (· == ' ')).reverse

/-- Put characters in front of the first piece. -/
def consPiece (p : List Char) : List (List Char) → List (List Char)
  | [] => [p]
  | q :: qs => (p ++ q) :: qs

/-- The pieces of a text between separators; a separator inside quotes separates nothing (DESIGN CHOICE, log 13). The first
argument says whether the text begins inside a double-quoted string. -/
def splitPieces (sep : Char) : Bool → List Char → List (List Char)
  | _, [] => [[]]
  | false, '\'' :: c :: '\'' :: cs => consPiece ['\'', c, '\''] (splitPieces sep false cs)
  | inString, c :: cs =>
    if c == '"' then consPiece [c] (splitPieces sep (!inString) cs)
    else if c == sep && !inString then [] :: splitPieces sep false cs
    else consPiece [c] (splitPieces sep inString cs)

/-- The lines of a text. -/
def splitLines : List Char → List (List Char)
  | [] => [[]]
  | c :: cs => if c == '\n' then [] :: splitLines cs else consPiece [c] (splitLines cs)

/-- "A semicolon starts a comment that runs to the end of the line" (30_encoding.md R46). -/
def stripComment (line : List Char) : List Char := (splitPieces ';' false line).headD []

/-- The characters of a quoted ASCII string, after its opening quote. -/
def quotedBytes : List Char → Except AsmError (List Byte)
  | [] => .error .badOperand
  | ['"'] => .ok []
  | c :: cs =>
    if c == '"' || 128 ≤ c.toNat then .error .badOperand
    else
      match quotedBytes cs with
      | .ok bs => .ok (BitVec.ofNat 8 c.toNat :: bs)
      | .error e => .error e

/-- Byte literals, one a piece. -/
def byteLiterals : List (List Char) → Except AsmError (List Byte)
  | [] => .ok []
  | p :: ps =>
    match byteLiteral (trimSpaces p), byteLiterals ps with
    | .error e, _ => .error e
    | .ok _, .error e => .error e
    | .ok b, .ok bs => .ok (b :: bs)

/-- A buffer of the host: a quoted ASCII string or a bracketed list of byte literals (30_encoding.md R47). -/
def dataLiteral (cs : List Char) : Except AsmError (List Byte) :=
  match cs with
  | '"' :: rest => quotedBytes rest
  | '[' :: rest =>
    if rest.getLast? = some ']' then
      if trimSpaces rest.dropLast = [] then .ok [] else byteLiterals (splitPieces ',' false rest.dropLast)
    else .error .badOperand
  | _ => .error .badOperand

/-- An operation that takes no operand. -/
def withoutOperand (arg : List Char) (prog : List Instr) : Except AsmError (List Instr) :=
  if arg = [] then .ok prog else .error .extraText

/-- An operation that takes a byte. -/
def withByte (arg : List Char) (prog : Byte → List Instr) : Except AsmError (List Instr) :=
  match byteLiteral arg with
  | .ok b => .ok (prog b)
  | .error e => .error e

/-- A pseudo-instruction that takes a buffer. -/
def withData (arg : List Char) (prog : List Byte → List Instr) : Except AsmError (List Instr) :=
  match dataLiteral arg with
  | .ok data => .ok (prog data)
  | .error e => .error e

/-- The operations of a line from its first word and the rest of it (30_encoding.md R46, R47). -/
def parseOperation (word arg : List Char) : Except AsmError (List Instr) :=
  if word = ['I', 'N', 'I', 'T'] then withoutOperand arg [.init]
  else if word = ['A', 'B', 'S'] then withByte arg fun d => [.abs d]
  else if word = ['R', 'D', 'S', 'U', 'M'] then withoutOperand arg [.rdsum]
  else if word = ['R', 'D', 'C', 'R', 'C'] then withoutOperand arg [.rdcrc]
  else if word = ['R', 'D', 'C', 'L'] then withoutOperand arg [.rdcl]
  else if word = ['R', 'D', 'C', 'H'] then withoutOperand arg [.rdch]
  else if word = ['A', 'B', 'S', 'N'] then withData arg absN
  else if word = ['E', 'M', 'I', 'T', 'L', 'E'] then withoutOperand arg emitLe
  else if word = ['S', 'U', 'M', '8'] then withData arg sum8
  else if word = ['C', 'R', 'C', '1', '6'] then withData arg crc16
  else if word = ['C', 'R', 'C', '1', '6', 'L', 'E'] then withData arg crc16Le
  else .error .unknownMnemonic

/-- The operations of one line: none for a blank line (30_encoding.md R46). -/
def parseLine (line : List Char) : Except AsmError (List Instr) :=
  let text := trimSpaces (stripComment line)
  if text = [] then .ok []
  else parseOperation (text.takeWhile (· != ' ')) (trimSpaces (text.dropWhile (· != ' ')))

/-- The operations of the lines, in text order. -/
def parseLines : List (List Char) → Except AsmError (List Instr)
  | [] => .ok []
  | l :: ls =>
    match parseLine l, parseLines ls with
    | .error e, _ => .error e
    | .ok _, .error e => .error e
    | .ok p, .ok ps => .ok (p ++ ps)

/-- The program of a text, pseudo-instructions expanded (30_encoding.md R46, R47). -/
def parseProgram (text : List Char) : Except AsmError (List Instr) := parseLines (splitLines text)

/-- The command words of a text: "Each operation assembles to its canonical command word" (30_encoding.md R46). -/
def assemble (text : List Char) : Except AsmError (List CommandWord) :=
  match parseProgram text with
  | .ok prog => .ok (commandWords prog)
  | .error e => .error e

/-- A hexadecimal digit, upper case. -/
def hexDigit (n : Nat) : Char := if n < 10 then Char.ofNat (48 + n) else Char.ofNat (55 + n)

/-- "three hexadecimal digits with the `0x` prefix, the 11 bits right-aligned and the twelfth bit zero" (30_encoding.md R49). -/
def listing (w : CommandWord) : List Char :=
  ['0', 'x', hexDigit (w.toNat / 256), hexDigit (w.toNat / 16 % 16), hexDigit (w.toNat % 16)]

end Sys2Proof.Machine
end

