-- ==== Sys2Proof/Machine/Client.lean ====
section
/-! DEFINITION. The boundary (43_functions.md R73 to R76; 60_exceptions.md R78): how the surrounding client uses a result to accept
or reject a write. None of it is in the block, which has no comparator (92_eei_decisions.md D27). The client's frames, timeouts and
state machine are outside the spec (00_scope.md R4). -/

namespace Sys2Proof.Machine

/-- The errors the source defines, all the client's, named and not numbered (60_exceptions.md R78). Only `checksumMismatch` consumes
an output of the block; the other four arise without it, and nothing here raises them. -/
inductive ClientError where
  | portUnavailable
  | timeout
  | protocolMismatch
  | checksumMismatch
  | addressOutOfRange
deriving DecidableEq, Repr

/-- The two variants of the source's `WriteVerification` (43_functions.md R74). -/
inductive WriteKind where
  /-- `WRBK`: a block write, verified by the sum. -/
  | block
  /-- `WRSECT`: a sector write, verified by the CRC. -/
  | sector
deriving DecidableEq, Repr

/-- The payload's exact length (43_functions.md R74). -/
def WriteKind.payloadLength : WriteKind → Nat
  | .block => Config.blockLength
  | .sector => Config.sectorLength

/-- The payload of a write: its bytes, exactly as many as the write's kind asks for (43_functions.md R74). -/
structure Payload (k : WriteKind) where
  data : List Byte
  length_eq : data.length = k.payloadLength
deriving DecidableEq, Repr

/-- A buffer as the payload of a write: of any other length it is none (43_functions.md R74). -/
def payloadOf (k : WriteKind) (data : List Byte) : Option (Payload k) :=
  if h : data.length = k.payloadLength then some ⟨data, h⟩ else none

/-- The bytes that the device returns after a write of each kind, in the order in which they arrive: one for a block write, two for
a sector write, low byte first (43_functions.md R74). -/
inductive Reply : WriteKind → Type where
  | block (r : Byte) : Reply .block
  | sector (b0 b1 : Byte) : Reply .sector
deriving DecidableEq, Repr

/-- The operations that compute, over a buffer, the one result that a write of this kind uses, as the device returns it
(43_functions.md R63, R74). The two functions are defined for any length (90_conflicts.md C4). -/
def resultProgram (k : WriteKind) (data : List Byte) : List Instr :=
  match k with
  | .block => sum8 data
  | .sector => crc16Le data

/-- The reply made of the outputs of that program: one byte, or two, `RDCL`'s first (43_functions.md R72, R74). -/
def replyOfOutputs (k : WriteKind) (outs : List Half) : Option (Reply k) :=
  match k, outs with
  | .block, [v] => some (.block (lane0 v))
  | .sector, [lo, hi] => some (.sector (lane0 lo) (lane0 hi))
  | _, _ => none

/-- The comparison of a reply with the same result computed over a buffer: `ChecksumMismatch` if and only if they differ
(43_functions.md R75; both comparisons are hard, 90_conflicts.md C3). That a buffer of any length may stand here is the model's
(DESIGN CHOICE, log 17); a write compares by `verifyWrite`. -/
def compareResult {k : WriteKind} (data : List Byte) (reply : Reply k) : Except ClientError Unit :=
  match reply with
  | .block r => if r = additiveChecksum data then .ok () else .error .checksumMismatch
  | .sector b0 b1 => if fromLe b0 b1 = crc16Xmodem data then .ok () else .error .checksumMismatch

/-- The operations by which a device with this block computes its result over the payload it received, "the exact payload just
transmitted" and nothing else (43_functions.md R73, R74). -/
def deviceProgram {k : WriteKind} (received : Payload k) : List Instr := resultProgram k received.data

/-- The client's verification of a write: the reply of that write's kind against its own computation over the payload it sent
(43_functions.md R74, R75). -/
def verifyWrite {k : WriteKind} (sent : Payload k) (reply : Reply k) : Except ClientError Unit := compareResult sent.data reply

end Sys2Proof.Machine
end

