-- ==== Sys2Proof/Machine/Run.lean ====
section
/-! DEFINITION. Runs of the block: the events that clock edges amount to (70_reset_and_hazards.md R88), a run with its outputs
(R98), and the spec's own `step` over events, transcribed from 30_encoding.md R45, to which the clocked machine is compared. -/

namespace Sys2Proof.Machine

/-- "a model can treat reset as one more event in the sequence of events, `reset | step(cmd)`" (70_reset_and_hazards.md R88). -/
inductive Event where
  | reset
  | command (w : CommandWord)
deriving DecidableEq, Repr

/-- The event of a clock edge, if it is one: a reset, an accepted command word, or nothing (30_encoding.md R44). -/
def Edge.event (e : Edge) : Option Event :=
  if e.rst then some .reset else if e.accepts then some (.command e.cmd) else none

/-- The events of a list of clock edges, in order. -/
def eventsOf (es : List Edge) : List Event := es.filterMap Edge.event

/-- The instruction of an event: none for a reset. -/
def Event.instr : Event → Option Instr
  | .reset => none
  | .command w => some (decode w)

/-- `n` steps with the outputs of the read steps among them, in order: "the run's observable result is the sequence of outputs of
its read steps, in order" (70_reset_and_hazards.md R98). -/
def runSteps : Nat → State → Host.Outcome (State × List Half) Fault Refusal
  | 0, s => .next (s, [])
  | n + 1, s =>
    match step s with
    | .next t =>
      match runSteps n t with
      | .next (u, outs) => .next (u, t.dout.toList ++ outs)
      | .fault f => .fault f
      | .refused r => .refused r
    | .fault f => .fault f
    | .refused r => .refused r

/-- The block's architectural state alone (10_state.md R12). -/
structure Registers where
  crc : Half
  sum : Byte
deriving DecidableEq, Repr

/-- `CRC` and `SUM` of a state. -/
def State.registers (s : State) : Registers := { crc := s.crc, sum := s.sum }

/-- `step((CRC, SUM), cmd)` of 30_encoding.md R45, line by line: the next state and the optional output, or no answer. -/
def specStep (r : Registers) (cmd : CommandWord) : Option (Registers × Option Half) :=
  match decode cmd with
  | .init => some (⟨0x0000#16, 0x00#8⟩, none)
  | .abs d => some (⟨crcByte r.crc d, sumStep r.sum d⟩, none)
  | .rdsum => some (r, some (zext16 r.sum))
  | .rdcrc => some (r, some r.crc)
  | .rdcl => some (r, some (zext16 (lane0 r.crc)))
  | .rdch => some (r, some (zext16 (lane1 r.crc)))
  | .reserved6 => none
  | .reserved7 => none

/-- A run over events (70_reset_and_hazards.md R88, R98): the registers at its end and its outputs in order. -/
def specRun : List Event → Registers → Option (Registers × List Half)
  | [], r => some (r, [])
  | .reset :: es, _ => specRun es ⟨0x0000#16, 0x00#8⟩
  | .command w :: es, r =>
    match specStep r w with
    | none => none
    | some (r', out) =>
      match specRun es r' with
      | none => none
      | some (r'', outs) => some (r'', out.toList ++ outs)

/-- The stream after one instruction (10_state.md R19): `ABS` appends its byte, `INIT` empties it, a read leaves it. -/
def streamAfter (S : List Byte) : Instr → List Byte
  | .init => []
  | .abs d => S ++ [d]
  | .rdsum => S
  | .rdcrc => S
  | .rdcl => S
  | .rdch => S
  | .reserved6 => S
  | .reserved7 => S

/-- The stream after one event: a reset empties it too (10_state.md R19). -/
def streamAfterEvent (S : List Byte) : Option Event → List Byte
  | none => S
  | some .reset => []
  | some (.command w) => streamAfter S (decode w)

/-- The registers hold the two functions of the stream (10_state.md R19). -/
def Reflects (s : State) (S : List Byte) : Prop := s.crc = crc16Xmodem S ∧ s.sum = additiveChecksum S

end Sys2Proof.Machine
end

