-- ==== Sys2Proof/Safety.lean ====
section
/-! DEFINITION. What a host must keep to (70_reset_and_hazards.md R99) and what counts as a safe run: one that the model never
refuses. -/

namespace Sys2Proof.Safety

open Sys2Proof.Machine

/-- The coming edges keep the host's table (70_reset_and_hazards.md R99), from an edge before which `held` was presented and not
accepted: on an edge without reset on which a word is presented, its opcode is 0 to 5, and it is the word that was already on the
port if there was one. Every other edge is allowed: a reset at any time, gaps of any length.

Where it allows more than R99's words it is the model's reading. A word presented and not accepted may be withdrawn (DEDUCED, log 5).
After a reset that met a presented word the host may present another word or none, though R88 and R99 have it present that one again
(DEDUCED, log 6). On an edge with `rst = 1` any word may be on the port, a reserved one or another than the one presented before,
though R99 says never to present `op` 6 or 7 and to hold `op` and `din` stable: R88 gives that edge its effect whatever is presented
(DESIGN CHOICE, log 19). R99's duties towards a buffer, the order of the two byte reads and the sampling of `dout` are not asked for,
since R91 to R93 and R43 say what happens without them (log 19). -/
def hostKeepsRules : Option CommandWord → List Edge → Bool
  | _, [] => true
  | held, e :: es =>
    if e.rst then hostKeepsRules none es
    else if !e.cmdValid then hostKeepsRules none es
    else (decode e.cmd).wellFormed && !breaksHandshake held e &&
      hostKeepsRules (if e.cmdReady then none else some e.cmd) es

/-- However many steps are taken, none is refused and none faults. -/
def Safe (s : State) : Prop := ∀ n, ∃ r, runSteps n s = .next r

/-- The edges listed in `s` present the program `prog` and nothing else: whatever words the host chose for its operations, with
whatever gaps and whatever waiting for `cmd_ready`, with no reset (70_reset_and_hazards.md R98, R99). That a word may be withdrawn
before it is accepted, and presented later, is the model's reading (log 5). Its edges hold no reset, so logs 6 and 19 do
not bear on it. -/
def Presents (s : State) (prog : List Instr) : Prop :=
  hostKeepsRules s.held s.input = true ∧ (eventsOf s.input).map Event.instr = prog.map some

/-- A run of all the edges listed in `s` ends in the registers `r` and gives the outputs `outs` (70_reset_and_hazards.md R98). -/
def RunGives (s : State) (r : Registers) (outs : List Half) : Prop :=
  ∃ t, runSteps s.input.length s = .next (t, outs) ∧ t.registers = r

/-- An operation that drives `dout` (30_encoding.md R43). -/
def isRead : Instr → Bool
  | .init => false
  | .abs _ => false
  | .rdsum => true
  | .rdcrc => true
  | .rdcl => true
  | .rdch => true
  | .reserved6 => false
  | .reserved7 => false

end Sys2Proof.Safety
end

