-- ==== Sys2Proof/Certificates/Slice0/Obligations.lean ====
section
/-! DEFINITION. The statements for the provers. Each docstring says which rule of spec/ it formalises. -/

open Sys2Proof Sys2Proof.Machine Sys2Proof.Safety

/-! ## Reset and the command port -/

/-- 10_state.md R18: after reset `CRC = 0x0000` and `SUM = 0x00`; R87: nothing is driven. -/
def Obligations.ResetStateIsClear : Prop :=
  State.reset.crc = 0x0000#16 ∧ State.reset.sum = 0x00#8 ∧ State.reset.dout = none

/-- 70_reset_and_hazards.md R87 and R88: an edge with `rst = 1` clears both registers, drives nothing and accepts nothing, whatever
the other ports carry. That the word held on the port is then forgotten is the model's (log 6), and so is that this holds of a
reserved or a changed word on that edge (log 19). -/
def Obligations.ResetEdgeWins : Prop :=
  ∀ (s : State) (e : Edge) (rest : List Edge), s.input = e :: rest → e.rst = true →
    step s = .next { crc := 0x0000#16, sum := 0x00#8, dout := none, held := none, input := rest }

/-- 30_encoding.md R44, R45 and R48: a command word accepted on the next edge has exactly the effect of the operation it decodes
to. Around it the step only takes the edge from the list and ends the presentation (the model's fields, logs 1 and 4). -/
def Obligations.StepRunsTheAcceptedCommand : Prop :=
  ∀ (s : State) (e : Edge) (rest : List Edge), s.input = e :: rest → breaksHandshake s.held e = false →
    e.rst = false → e.cmdValid = true → e.cmdReady = true →
    step s = exec (decode e.cmd) { s with held := none, input := rest }

/-- 30_encoding.md R44 and R49: a word placed on the port runs on the very next step, read without the container's bits above
bit 10 (log 9, log 10). -/
def Obligations.PlacedWordRunsNext : Prop :=
  ∀ (s : State) (nbits w : Nat), 11 ≤ nbits →
    step (s.withFetchWord nbits w) = exec (decode (BitVec.ofNat 11 w)) { s with held := none } ∧
    decodeTableWord nbits w = some (decode (BitVec.ofNat 11 w))

/-- 30_encoding.md R44: on an edge with `cmd_valid = 0` or `cmd_ready = 0`, and `rst = 0`, nothing is accepted and the registers do
not change; R43: nothing is driven. The last two clauses are the model's: a presented word stays on the port (log 4), a withdrawn
one is gone (log 5), and with nothing listed the host presents nothing (log 8). -/
def Obligations.UnacceptedEdgeChangesNothing : Prop :=
  (∀ (s : State) (e : Edge) (rest : List Edge), s.input = e :: rest → breaksHandshake s.held e = false →
    e.rst = false → (e.cmdValid = false ∨ e.cmdReady = false) →
    step s = .next { crc := s.crc, sum := s.sum, dout := none,
                     held := if e.cmdValid then some e.cmd else none, input := rest }) ∧
  (∀ s : State, s.input = [] →
    step s = .next { crc := s.crc, sum := s.sum, dout := none, held := none, input := [] })

/-- 70_reset_and_hazards.md R96 and 93_implementation_defined.md U5: a host that changes the presented word before it is accepted
has broken the handshake, and the model refuses (log 4). -/
def Obligations.ChangedWordIsRefused : Prop :=
  ∀ (s : State) (e : Edge) (rest : List Edge) (w : CommandWord), s.input = e :: rest → s.held = some w →
    e.rst = false → e.cmdValid = true → e.cmd ≠ w → step s = .refused .brokenHandshake

/-! ## The operations -/

/-- 40_init.md R50: `INIT` sets both accumulators to 0, reads nothing and produces no output, from every state. -/
def Obligations.InitClearsBothRegisters : Prop :=
  ∀ s : State, exec .init s = .next { s with crc := 0x0000#16, sum := 0x00#8, dout := none }

/-- 41_absorb.md R55: `ABS d` updates each register from its own old value and `d`, and produces no output, from every state and for
every `d`. -/
def Obligations.AbsAbsorbsIntoBothRegisters : Prop :=
  ∀ (d : Byte) (s : State),
    exec (.abs d) s = .next { s with crc := crcByte s.crc d, sum := sumStep s.sum d, dout := none }

/-- 42_read.md R57: `RDSUM` outputs `zext_16(SUM)`, `SUM` on bits 7 to 0 and zero above, and changes no register; where `SUM` is
the sum of a stream, the output is that sum. -/
def Obligations.RdsumOutputsTheSum : Prop :=
  (∀ s : State, ∃ v : Half, exec .rdsum s = .next { s with dout := some v } ∧
    v.extractLsb' 0 8 = s.sum ∧ v.extractLsb' 8 8 = 0x00#8) ∧
  (∀ (s : State) (S : List Byte), Reflects s S →
    exec .rdsum s = .next { s with dout := some (zext16 (additiveChecksum S)) })

/-- 42_read.md R58: `RDCRC` outputs `CRC` whole, bit for bit, and changes no register; where `CRC` is the CRC of a stream, the output
is that CRC. -/
def Obligations.RdcrcOutputsTheCrc : Prop :=
  (∀ s : State, exec .rdcrc s = .next { s with dout := some s.crc }) ∧
  (∀ (s : State) (S : List Byte), Reflects s S → exec .rdcrc s = .next { s with dout := some (crc16Xmodem S) })

/-- 42_read.md R59: `RDCL` outputs the low byte of the CRC, zero-extended, the first of the two bytes in wire order, and changes no
register. -/
def Obligations.RdclOutputsTheLowByte : Prop :=
  ∀ s : State, ∃ v : Half, exec .rdcl s = .next { s with dout := some v } ∧
    v.extractLsb' 0 8 = s.crc.extractLsb' 0 8 ∧ v.extractLsb' 8 8 = 0x00#8 ∧
    (leBytes s.crc)[0]? = some (v.extractLsb' 0 8)

/-- 42_read.md R60: `RDCH` outputs the high byte of the CRC, zero-extended, the second of the two bytes in wire order, and changes no
register. -/
def Obligations.RdchOutputsTheHighByte : Prop :=
  ∀ s : State, ∃ v : Half, exec .rdch s = .next { s with dout := some v } ∧
    v.extractLsb' 0 8 = s.crc.extractLsb' 8 8 ∧ v.extractLsb' 8 8 = 0x00#8 ∧
    (leBytes s.crc)[1]? = some (v.extractLsb' 0 8)

/-- 42_read.md, "The four reads together": in any state `RDCRC = RDCH * 256 + RDCL`, and neither byte read exceeds 0x00FF. -/
def Obligations.TheByteReadsMakeUpTheCrc : Prop :=
  ∀ s : State, ∃ c lo hi : Half,
    exec .rdcrc s = .next { s with dout := some c } ∧ exec .rdcl s = .next { s with dout := some lo } ∧
    exec .rdch s = .next { s with dout := some hi } ∧
    c.toNat = hi.toNat * 256 + lo.toNat ∧ lo.toNat ≤ 0xFF ∧ hi.toNat ≤ 0xFF

/-- 30_encoding.md R41: exactly the 512 words 0x600 to 0x7FF have no behaviour, and a model refuses them. -/
def Obligations.ReservedWordsAreRefused : Prop :=
  (∀ s : State, exec .reserved6 s = .refused (.reservedOpcode 6)) ∧
  (∀ s : State, exec .reserved7 s = .refused (.reservedOpcode 7)) ∧
  (∀ (w : CommandWord) (s : State), (∃ r, exec (decode w) s = .refused r) ↔ 0x600 ≤ w.toNat)

/-- 60_exceptions.md R77: every one of the six operations completes, for every operand value and from every state. -/
def Obligations.EveryOperationCompletes : Prop :=
  ∀ (i : Instr) (s : State), i.wellFormed = true → ∃ t, exec i s = .next t

/-- The frame of all operations (10_state.md R20; 30_encoding.md R43; 20_memory.md R29). The ports' coming edges and the word held are
untouched; a read changes no register and drives `dout`, with zero high byte but for `RDCRC`; `INIT` and `ABS` drive nothing. -/
def Obligations.OperationFrame : Prop :=
  ∀ (i : Instr) (s t : State), exec i s = .next t →
    t.held = s.held ∧ t.input = s.input ∧
    (isRead i = true → t.crc = s.crc ∧ t.sum = s.sum ∧ ∃ v, t.dout = some v ∧ (i ≠ .rdcrc → v.toNat < 256)) ∧
    (isRead i = false → t.dout = none)

/-- 20_memory.md R29: a read can be repeated; the repetition returns the same value and changes nothing. -/
def Obligations.ReadsAreRepeatable : Prop :=
  ∀ (i : Instr) (s t : State), isRead i = true → exec i s = .next t → exec i t = .next t

/-! ## The encoding -/

/-- 30_encoding.md R37 and 95_test_vectors.md section 2.4: command words written out from the opcode map decode to their
operations. -/
def Obligations.SampleWordsDecode : Prop :=
  decode 0x000#11 = .init ∧ decode 0x0FF#11 = .init ∧ decode 0x100#11 = .abs 0x00#8 ∧ decode 0x131#11 = .abs 0x31#8 ∧
  decode 0x1FF#11 = .abs 0xFF#8 ∧ decode 0x27E#11 = .rdsum ∧ decode 0x300#11 = .rdcrc ∧ decode 0x4C3#11 = .rdcl ∧
  decode 0x5FF#11 = .rdch ∧ decode 0x600#11 = .reserved6 ∧ decode 0x7FF#11 = .reserved7

/-- 30_encoding.md R48: decoding looks at `op` only and is total; `encode` gives canonical words; `decode (encode o) = o` for every
operation; `encode (decode w) = w` exactly when `w` is canonical, and otherwise the canonical word equivalent to `w`. -/
def Obligations.DecodeAndEncodeAgree : Prop :=
  (∀ din : Byte, decode (makeCommand 0 din) = .init ∧ decode (makeCommand 1 din) = .abs din ∧
    decode (makeCommand 2 din) = .rdsum ∧ decode (makeCommand 3 din) = .rdcrc ∧ decode (makeCommand 4 din) = .rdcl ∧
    decode (makeCommand 5 din) = .rdch ∧ decode (makeCommand 6 din) = .reserved6 ∧ decode (makeCommand 7 din) = .reserved7) ∧
  (∀ w : CommandWord, w = makeCommand (opField w) (dinField w)) ∧
  (∀ i : Instr, i.wellFormed = true → ∃ w, encode i = some w ∧ isCanonical w = true ∧ decode w = i) ∧
  (∀ w : CommandWord, encode (decode w) = some w ↔ isCanonical w = true) ∧
  (∀ w : CommandWord, (decode w).wellFormed = true →
    ∃ c, encode (decode w) = some c ∧ isCanonical c = true ∧ decode c = decode w)

/-- 30_encoding.md R39: in `INIT` and the four reads `din` is ignored: the block does the same for every value of it. -/
def Obligations.UnusedOperandIsIgnored : Prop :=
  ∀ (op : Opcode) (d d' : Byte) (s : State), op ≠ 1 → op.toNat ≤ 5 →
    exec (decode (makeCommand op d)) s = exec (decode (makeCommand op d')) s

/-- 30_encoding.md R40: an operation's canonical word is 0x000, 0x100 + d, 0x200, 0x300, 0x400 or 0x500, and there are 261 of them. -/
def Obligations.CanonicalWordsAre261 : Prop :=
  encode .init = some 0x000#11 ∧ (∀ d : Byte, encode (.abs d) = some (0x100#11 + d.setWidth 11)) ∧
  encode .rdsum = some 0x200#11 ∧ encode .rdcrc = some 0x300#11 ∧ encode .rdcl = some 0x400#11 ∧
  encode .rdch = some 0x500#11 ∧
  ((List.range 2048).filter fun n => isCanonical (BitVec.ofNat 11 n)).length = 261

/-- 30_encoding.md R46 and R40: whatever the text, every word that the assembler emits is canonical, and the emitted words decode, one
by one, to the operations of the text. -/
def Obligations.AssemblerEmitsCanonicalWords : Prop :=
  ∀ (text : List Char) (ws : List CommandWord), assemble text = .ok ws →
    (∀ w ∈ ws, isCanonical w = true) ∧ parseProgram text = .ok (ws.map decode)

/-- 30_encoding.md R46: a decimal operand assembles to the byte if it is at most 255, and above that it is an error, not a
truncation. -/
def Obligations.DecimalOperandIsNeverTruncated : Prop :=
  ∀ n : Nat, byteLiteral (Nat.toDigits 10 n) = if n < 256 then .ok (BitVec.ofNat 8 n) else .error .outOfRange

/-- 30_encoding.md R49: the listing of a command word, `0x` and three hexadecimal digits, determines the word. -/
def Obligations.ListingDeterminesTheWord : Prop :=
  ∀ w w' : CommandWord, listing w = listing w' → w = w'

/-! ## The arithmetic -/

/-- 41_absorb.md R51: `(s + d) mod 256`, the carry discarded. -/
def Obligations.SumStepAddsModulo256 : Prop :=
  ∀ s d : Byte, (sumStep s d).toNat = (s.toNat + d.toNat) % 256 ∧
    s.toNat + d.toNat = (sumStep s d).toNat + (if sumCarry s d then 256 else 0)

/-- 41_absorb.md R52: `a ^ (d << 8)`: the byte is XORed into bits 15 to 8, bits 7 to 0 are unchanged. -/
def Obligations.XorinChangesTheHighByteOnly : Prop :=
  ∀ (a : Half) (d : Byte), (crcXorin a d).toNat = crcXorinInt a.toNat d.toNat ∧
    (crcXorin a d).extractLsb' 8 8 = a.extractLsb' 8 8 ^^^ d ∧ (crcXorin a d).extractLsb' 0 8 = a.extractLsb' 0 8

/-- 41_absorb.md R53: a round is the shift of the integer, the test of its bit 16 (the old bit 15), the XOR with 0x1021 (bits 12, 5
and 0) and the mask; bit 0 of the result is the old bit 15. -/
def Obligations.RoundFollowsTheIntegerPseudocode : Prop :=
  (∀ a : Half, (crcRound a).toNat = crcRoundInt a.toNat ∧
    ((a.toNat * 2) &&& 0x10000 ≠ 0 ↔ a.getLsbD 15 = true) ∧ (crcRound a).getLsbD 0 = a.getLsbD 15) ∧
  (∀ i, Config.polynomial.getLsbD i = true ↔ i = 12 ∨ i = 5 ∨ i = 0)

/-- 41_absorb.md R54: one xor-in and exactly 8 rounds, whatever the byte, as the pseudocode over integers has it. -/
def Obligations.ByteStepIsXorinAndEightRounds : Prop :=
  ∀ (a : Half) (d : Byte),
    crcByte a d = crcRound (crcRound (crcRound (crcRound (crcRound (crcRound (crcRound (crcRound (crcXorin a d)))))))) ∧
    (crcByte a d).toNat = crcByteInt a.toNat d.toNat

/-- 41_absorb.md R56: the test before the shift (a), the 17-bit polynomial without a mask (b) and the table (c) give the same result
for every input. -/
def Obligations.EquivalentFormsAgree : Prop :=
  (∀ a : Half, crcRoundTestFirst a = crcRound a) ∧
  (∀ a : Half, crcRoundNoMask a = (crcRound a).setWidth 17) ∧
  (∀ (a : Half) (d : Byte), crcByteTable a d = crcByte a d)

/-- 95_test_vectors.md section 3.1: the round has the inverse given there. -/
def Obligations.RoundHasTheGivenInverse : Prop :=
  ∀ a : Half, crcUnround (crcRound a) = a ∧ crcRound (crcUnround a) = a

/-- 41_absorb.md R55, corner cases: a byte equal to the high byte of `CRC` moves the low byte up, and a zero byte leaves `CRC` alone
when it is 0. -/
def Obligations.HighByteMovesTheLowByteUp : Prop :=
  (∀ a : Half, crcByte a (lane1 a) = a <<< 8) ∧ crcByte 0x0000#16 0x00#8 = 0x0000#16

/-- A zero byte leaves `CRC` unchanged for exactly two values of it, 0x0000 and 0xF01F. Derived from 41_absorb.md R52 to R54; it
corrects the corner case of R55 that the next statement formalises (log 16). -/
def Obligations.ZeroByteFixesTwoValues : Prop :=
  ∀ a : Half, crcByte a 0x00#8 = a ↔ a = 0x0000#16 ∨ a = 0xF01F#16

/-- The corner case of 41_absorb.md R55 as written: "`d = 0x00` with `CRC != 0x0000`: `SUM` is unchanged but `CRC` changes". It is
expected to fail, at `CRC = 0xF01F` (log 16). -/
def Obligations.ZeroByteAlwaysChangesNonzeroCrc : Prop :=
  ∀ s : State, s.crc ≠ 0x0000#16 →
    ∃ t, exec (.abs 0x00#8) s = .next t ∧ t.sum = s.sum ∧ t.crc ≠ s.crc

/-! ## The whole-buffer functions and their laws -/

/-- 43_functions.md R61: the sum of all bytes modulo 256. -/
def Obligations.AdditiveChecksumIsTheSumModulo256 : Prop :=
  ∀ data : List Byte, (additiveChecksum data).toNat = (data.map BitVec.toNat).sum % 256

/-- 43_functions.md R62: the loop of the pseudocode over integers, from 0, in ascending order, returned as it stands. -/
def Obligations.Crc16XmodemFollowsTheIntegerPseudocode : Prop :=
  ∀ data : List Byte, (crc16Xmodem data).toNat = (data.map BitVec.toNat).foldl crcByteInt 0

/-- 43_functions.md R64: both functions of the empty buffer are 0. -/
def Obligations.EmptyBufferGivesZero : Prop :=
  crc16Xmodem [] = 0x0000#16 ∧ additiveChecksum [] = 0x00#8

/-- 43_functions.md R65, all six laws of the sum: concatenation, reordering, zero bytes, wrapping, one byte changed, two changes that
cancel. -/
def Obligations.LawsOfTheSum : Prop :=
  (∀ a b : List Byte,
    (additiveChecksum (a ++ b)).toNat = ((additiveChecksum a).toNat + (additiveChecksum b).toNat) % 256) ∧
  (∀ a b : List Byte, a.Perm b → additiveChecksum a = additiveChecksum b) ∧
  (∀ a b : List Byte, additiveChecksum (a ++ 0x00#8 :: b) = additiveChecksum (a ++ b)) ∧
  (additiveChecksum (List.replicate 256 0xFF#8) = 0x00#8 ∧ additiveChecksum (List.replicate 256 0x00#8) = 0x00#8) ∧
  (∀ (a b : List Byte) (x y : Byte), x ≠ y → additiveChecksum (a ++ x :: b) ≠ additiveChecksum (a ++ y :: b)) ∧
  (∀ (a b c : List Byte) (x y x' y' : Byte),
    (((x'.toNat : Int) - x.toNat) + ((y'.toNat : Int) - y.toNat)) % 256 = 0 →
    additiveChecksum (a ++ x :: b ++ y :: c) = additiveChecksum (a ++ x' :: b ++ y' :: c))

/-- 43_functions.md R66: the CRC of a buffer can be computed piece by piece. -/
def Obligations.CrcChains : Prop :=
  ∀ a b : List Byte, crc16Xmodem (a ++ b) = crcFrom (crc16Xmodem a) b

/-- 43_functions.md R67: the CRC is linear over exclusive OR, in the starting value and in buffers of equal length. -/
def Obligations.CrcIsLinear : Prop :=
  (∀ a b : List Byte, a.length = b.length → crc16Xmodem (xorBuffers a b) = crc16Xmodem a ^^^ crc16Xmodem b) ∧
  (∀ (p q : Half) (a b : List Byte), a.length = b.length →
    crcFrom (p ^^^ q) (xorBuffers a b) = crcFrom p a ^^^ crcFrom q b)

/-- 43_functions.md R68, without its last sentence but one (log 16): leading zero bytes do not change the CRC, and the CRC of an
all-zero buffer is 0. -/
def Obligations.LeadingZerosAreInvisible : Prop :=
  ∀ (n : Nat) (a : List Byte), crc16Xmodem (List.replicate n 0x00#8 ++ a) = crc16Xmodem a ∧
    crc16Xmodem (List.replicate n 0x00#8) = 0x0000#16

/-- 43_functions.md R69: a buffer followed by its own CRC, high byte first, has CRC 0; in wire order it need not, and for
"123456789" it is 0xBAFE. -/
def Obligations.CrcResidueIsZero : Prop :=
  (∀ a : List Byte, crc16Xmodem (a ++ [lane1 (crc16Xmodem a), lane0 (crc16Xmodem a)]) = 0x0000#16) ∧
  (∃ a : List Byte, a = [0x31#8, 0x32#8, 0x33#8, 0x34#8, 0x35#8, 0x36#8, 0x37#8, 0x38#8, 0x39#8] ∧
    crc16Xmodem (a ++ leBytes (crc16Xmodem a)) = 0xBAFE#16)

/-- 43_functions.md R70: a round and, for each byte, the byte step are bijections of the accumulator; the byte step is injective in
the byte; two buffers of equal length that differ in exactly one byte have different CRCs. -/
def Obligations.CrcDetectsOneChangedByte : Prop :=
  Function.Bijective crcRound ∧ (∀ d : Byte, Function.Bijective fun a => crcByte a d) ∧
  (∀ a : Half, Function.Injective (crcByte a)) ∧
  (∀ (a b : List Byte) (x y : Byte), x ≠ y → crc16Xmodem (a ++ x :: b) ≠ crc16Xmodem (a ++ y :: b))

/-- 43_functions.md R72: low byte first; `from_le` is the inverse of `le_bytes`; the block produces the two bytes with `RDCL` and
`RDCH`. -/
def Obligations.WireBytesAreLowByteFirst : Prop :=
  (∀ v : Half, ∃ b0 b1, leBytes v = [b0, b1] ∧ b0 = v.extractLsb' 0 8 ∧ b1 = v.extractLsb' 8 8 ∧ fromLe b0 b1 = v) ∧
  (∀ b0 b1 : Byte, leBytes (fromLe b0 b1) = [b0, b1] ∧ (fromLe b0 b1).toNat = b1.toNat * 256 + b0.toNat) ∧
  (leBytes 0x31C3#16 = [0xC3#8, 0x31#8] ∧ fromLe 0xC3#8 0x31#8 = 0x31C3#16) ∧
  (∀ s : State, ∃ b0 b1, leBytes s.crc = [b0, b1] ∧ exec .rdcl s = .next { s with dout := some (b0.setWidth 16) } ∧
    exec .rdch s = .next { s with dout := some (b1.setWidth 16) })

/-! ## Runs -/

/-- 10_state.md R19 at reset: the empty stream. -/
def Obligations.StreamInvariantAtReset : Prop := Reflects State.reset []

/-- 10_state.md R19: whatever the next edge carries, if the registers hold the two functions of the stream before a step, they hold
those of the stream after it: an `ABS` appends its byte, `INIT` and reset empty the stream, nothing else changes it. -/
def Obligations.StepKeepsTheStreamInvariant : Prop :=
  ∀ (s t : State) (S : List Byte), Reflects s S → step s = .next t →
    Reflects t (streamAfterEvent S (nextEdge s).1.event)

/-- 43_functions.md R63: from any state and for every buffer, the sequences that `SUM8`, `CRC16` and `CRC16LE` stand for output the
functions of the buffer, whatever the waiting on the port; directly after reset the leading `INIT` may be left out. -/
def Obligations.SequencesComputeTheFunctions : Prop :=
  ∀ (s : State) (data : List Byte),
    (Presents s (sum8 data) →
      RunGives s ⟨crc16Xmodem data, additiveChecksum data⟩ [zext16 (additiveChecksum data)]) ∧
    (Presents s (crc16 data) →
      RunGives s ⟨crc16Xmodem data, additiveChecksum data⟩ [crc16Xmodem data]) ∧
    (Presents s (crc16Le data) →
      RunGives s ⟨crc16Xmodem data, additiveChecksum data⟩
        [zext16 (lane0 (crc16Xmodem data)), zext16 (lane1 (crc16Xmodem data))]) ∧
    (s.registers = State.reset.registers → Presents s (absN data ++ [.rdsum, .rdcrc, .rdcl, .rdch]) →
      RunGives s ⟨crc16Xmodem data, additiveChecksum data⟩
        [zext16 (additiveChecksum data), crc16Xmodem data,
          zext16 (lane0 (crc16Xmodem data)), zext16 (lane1 (crc16Xmodem data))])

/-- 70_reset_and_hazards.md R91: without an `INIT` or reset between two buffers, the second result is that of their concatenation;
reading the first result does not clear it. -/
def Obligations.MissingInitConcatenates : Prop :=
  ∀ (s : State) (a b : List Byte),
    Presents s (.init :: absN a ++ [.rdcrc, .rdsum] ++ absN b ++ [.rdcrc, .rdsum]) →
    ∃ r second, RunGives s r [crc16Xmodem a, zext16 (additiveChecksum a), second, zext16 r.sum] ∧
      second = crcFrom (crc16Xmodem a) b ∧ second = crc16Xmodem (a ++ b) ∧ r.crc = second ∧
      r.sum.toNat = ((additiveChecksum a).toNat + (additiveChecksum b).toNat) % 256

/-- 70_reset_and_hazards.md R92 and 20_memory.md R31: the bytes of two buffers interleaved on one block, in whatever order, are absorbed as
the one stream they form: the CRC is that stream's, the sum is still the sum of both. -/
def Obligations.InterleavedBuffersAreOneStream : Prop :=
  ∀ (s : State) (a b stream : List Byte), stream.Perm (a ++ b) →
    Presents s (.init :: absN stream ++ [.rdsum, .rdcrc]) →
    ∃ r sum, RunGives s r [zext16 sum, crc16Xmodem stream] ∧
      sum.toNat = ((additiveChecksum a).toNat + (additiveChecksum b).toNat) % 256

/-- 70_reset_and_hazards.md R93: with bytes absorbed between `RDCL` and `RDCH` the two bytes read belong to different values of `CRC`,
the CRC before and the CRC after. -/
def Obligations.TornPairMixesTwoValues : Prop :=
  ∀ (s : State) (a b : List Byte), Presents s (.init :: absN a ++ [.rdcl] ++ absN b ++ [.rdch]) →
    ∃ r, RunGives s r [zext16 (lane0 (crc16Xmodem a)), zext16 (lane1 (crc16Xmodem (a ++ b)))] ∧
      r.crc = crc16Xmodem (a ++ b)

/-- 70_reset_and_hazards.md R94 and 20_memory.md R29: taking the reads out of a program, wherever they stand, leaves the same final
registers; what remains outputs nothing. -/
def Obligations.ReadsDoNotDisturbTheRun : Prop :=
  ∀ (s s' : State) (prog : List Instr), s.registers = s'.registers → Presents s prog →
    Presents s' (prog.filter fun i => !isRead i) →
    ∃ r outs, RunGives s r outs ∧ RunGives s' r []

/-- 30_encoding.md R45, with R44, R88 and R98: for a host that keeps its table, the run of the clocked machine gives exactly the
registers and the outputs of the spec's own `step` over the events of its edges. Which hosts these are is in part the model's
reading: `hostKeepsRules` admits a withdrawn word (log 5), and a host that drops its word after a reset, against the "present it
again" of R88 and R99 (log 6), and it allows any word, reserved or changed, on a reset edge (log 19). That a read's output stays in
the run though a reset follows at once is the model's choice (log 18). -/
def Obligations.RunsFollowTheSpecStep : Prop :=
  ∀ s : State, hostKeepsRules s.held s.input = true →
    ∃ r outs, specRun (eventsOf s.input) s.registers = some (r, outs) ∧ RunGives s r outs

/-- 70_reset_and_hazards.md R97: two runs with the same events, whatever the gaps and the cycles that `cmd_ready` is low in each,
end in the same registers and give the same outputs. That it holds too of a host that withdraws a word (log 5) or drops one after a
reset (log 6), or has a reserved or a changed word on the port at a reset (log 19), is the model's reading and not R97's; so is that
a reset soon after a read never withdraws its output (log 18). -/
def Obligations.TimingIsInvisible : Prop :=
  ∀ s s' : State, hostKeepsRules s.held s.input = true → hostKeepsRules s'.held s'.input = true →
    eventsOf s.input = eventsOf s'.input → s.registers = s'.registers →
    ∃ r outs, RunGives s r outs ∧ RunGives s' r outs

/-- 70_reset_and_hazards.md R99 and 60_exceptions.md R77: a host that keeps its table is never refused, however long it goes on.
Which hosts these are is in part the model's reading: `hostKeepsRules` admits a withdrawn word (log 5), a host that drops its word
after a reset (log 6), and any word, reserved or changed, on a reset edge (log 19). -/
def Obligations.HostThatKeepsTheRulesIsNeverRefused : Prop :=
  ∀ s : State, hostKeepsRules s.held s.input = true → Safe s

/-- 70_reset_and_hazards.md R99: keeping the table is an invariant: the step answers a state whose remaining edges keep it too. The
table is R99's as the model reads it: `hostKeepsRules` drops the duty to present a word again after a reset (log 6), admits
withdrawal (log 5), and allows any word, reserved or changed, on a reset edge (log 19). -/
def Obligations.StepKeepsTheHostTable : Prop :=
  ∀ s : State, hostKeepsRules s.held s.input = true →
    ∃ t, step s = .next t ∧ hostKeepsRules t.held t.input = true

/-- 10_state.md R12 and R16: two machines with equal `CRC` and `SUM`, on equal ports, behave identically from then on, whatever `dout`
carried before. -/
def Obligations.CrcAndSumAreTheWholeState : Prop :=
  ∀ (s s' : State) (n : Nat), s.crc = s'.crc → s.sum = s'.sum → s.held = s'.held → s.input = s'.input →
    runSteps (n + 1) s = runSteps (n + 1) s'

/-- 10_state.md section 1: the two registers are independent; a step gives each a value that the other has no influence on. -/
def Obligations.RegistersAreIndependent : Prop :=
  ∀ s s' t t' : State, s.held = s'.held → s.input = s'.input → step s = .next t → step s' = .next t' →
    (s.crc = s'.crc → t.crc = t'.crc) ∧ (s.sum = s'.sum → t.sum = t'.sum)

/-! ## The boundary -/

/-- 43_functions.md R75: `ChecksumMismatch` if and only if the result received differs from the client's own, over the payload of the
write; the comparison itself takes a buffer of any length (the last two clauses, log 17). -/
def Obligations.MismatchIffTheResultsDiffer : Prop :=
  (∀ (sent : Payload .block) (r : Byte),
    verifyWrite sent (.block r) = .error .checksumMismatch ↔ r ≠ additiveChecksum sent.data) ∧
  (∀ (sent : Payload .sector) (b0 b1 : Byte),
    verifyWrite sent (.sector b0 b1) = .error .checksumMismatch ↔
      b1.toNat * 256 + b0.toNat ≠ (crc16Xmodem sent.data).toNat) ∧
  (∀ (data : List Byte) (r : Byte),
    compareResult data (.block r) = .error .checksumMismatch ↔ r ≠ additiveChecksum data) ∧
  (∀ (data : List Byte) (b0 b1 : Byte),
    compareResult data (.sector b0 b1) = .error .checksumMismatch ↔ b1.toNat * 256 + b0.toNat ≠ (crc16Xmodem data).toNat)

/-- 70_reset_and_hazards.md R93: a CRC sent high byte first is rejected for good data, but where its two bytes are equal: for the
payload of a sector write, and by the comparison for a buffer of any length (log 17). -/
def Obligations.SwappedLanesAreRejected : Prop :=
  (∀ sent : Payload .sector,
    (verifyWrite sent (.sector (lane1 (crc16Xmodem sent.data)) (lane0 (crc16Xmodem sent.data))) = .ok () ↔
      lane0 (crc16Xmodem sent.data) = lane1 (crc16Xmodem sent.data)) ∧
    verifyWrite sent (.sector (lane0 (crc16Xmodem sent.data)) (lane1 (crc16Xmodem sent.data))) = .ok ()) ∧
  (∀ data : List Byte,
    (compareResult data (.sector (lane1 (crc16Xmodem data)) (lane0 (crc16Xmodem data))) = .ok () ↔
      lane0 (crc16Xmodem data) = lane1 (crc16Xmodem data)) ∧
    compareResult data (.sector (lane0 (crc16Xmodem data)) (lane1 (crc16Xmodem data))) = .ok ())

/-- 43_functions.md R73 to R75 with R63, R65 (v) and R70: a device that computes its result with this block over the payload it
received, from any state and at any speed, returns a reply that the client accepts if that is the payload it sent, and answers with
`ChecksumMismatch` if exactly one byte arrived changed, for both kinds of write. R74 fixes the payload at 256 and 4096 bytes, which
`Payload` holds; that the same is true of buffers of any length, the second clause, is the model's generalisation (log 17). -/
def Obligations.WriteVerificationDetectsOneChangedByte : Prop :=
  (∀ (k : WriteKind) (s : State) (received : Payload k), Presents s (deviceProgram received) →
    ∃ r outs reply, RunGives s r outs ∧ replyOfOutputs k outs = some reply ∧ verifyWrite received reply = .ok () ∧
      ∀ (sent : Payload k) (a b : List Byte) (x y : Byte), received.data = a ++ x :: b → sent.data = a ++ y :: b → x ≠ y →
        verifyWrite sent reply = .error .checksumMismatch) ∧
  (∀ (k : WriteKind) (s : State) (received : List Byte), Presents s (resultProgram k received) →
    ∃ r outs reply, RunGives s r outs ∧ replyOfOutputs k outs = some reply ∧ compareResult received reply = .ok () ∧
      ∀ (a b : List Byte) (x y : Byte), received = a ++ x :: b → x ≠ y →
        compareResult (a ++ y :: b) reply = .error .checksumMismatch)

/-- 43_functions.md R74: a buffer is the payload of a block write exactly when it has 256 bytes, and of a sector write exactly when it
has 4096; the device's program absorbs that payload and nothing else, whatever was absorbed before; its result is one byte for a block
write and two for a sector write. -/
def Obligations.DeviceAbsorbsExactlyThePayload : Prop :=
  (∀ data : List Byte, (∃ p : Payload .block, payloadOf .block data = some p ∧ p.data = data) ↔ data.length = 256) ∧
  (∀ data : List Byte, (∃ p : Payload .sector, payloadOf .sector data = some p ∧ p.data = data) ↔ data.length = 4096) ∧
  (∀ (k : WriteKind) (received : Payload k) (S : List Byte), (deviceProgram received).foldl streamAfter S = received.data) ∧
  (∀ outs : List Half, (replyOfOutputs .block outs).isSome = true ↔ outs.length = 1) ∧
  (∀ outs : List Half, (replyOfOutputs .sector outs).isSome = true ↔ outs.length = 2)
end

