-- ==== Sys2Proof/Laws/Checksum.lean ====
section
/-! SUPPORT. The small facts about the arithmetic that later proofs cite instead of unfolding it. -/

namespace Sys2Proof.Machine

/-- Narrowing the exact sum is addition of bytes. -/
theorem sumStep_eq_add (s d : Byte) : sumStep s d = s + d := by
  apply BitVec.eq_of_toNat_eq
  simp [sumStep]

/-- The bits of the xor-in: the byte lands on bits 15 to 8. -/
theorem crcXorin_getLsbD (a : Half) (d : Byte) {i : Nat} (hi : i < 16) :
    (crcXorin a d).getLsbD i = (a.getLsbD i ^^ (decide (8 ≤ i) && d.getLsbD (i - 8))) := by
  by_cases h : 8 ≤ i
  · simp [crcXorin, hi, h, Nat.not_lt.mpr h]
  · simp [crcXorin, h, Nat.lt_of_not_le h]

/-- Bit 16 of a round's shifted value is the old bit 15. -/
theorem bit16_shifted (a : Half) : bit16 (a.setWidth 17 <<< 1) = a.getLsbD 15 := by
  have key : ∀ i < 17, (0x10000#17).getLsbD i = decide (i = 16) := by decide
  have h : ((a.setWidth 17 <<< 1) &&& 0x10000#17) = if a.getLsbD 15 then 0x10000#17 else 0#17 := by
    apply BitVec.eq_of_getLsbD_eq
    intro i hi
    rw [BitVec.getLsbD_and, key i hi]
    by_cases h16 : i = 16
    · subst h16
      have : (BitVec.setWidth 17 a <<< 1).getLsbD 16 = a.getLsbD 15 := by
        rw [BitVec.getLsbD_shiftLeft, BitVec.getLsbD_setWidth]; simp
      rw [this]
      cases a.getLsbD 15 <;> decide
    · cases a.getLsbD 15
      · simp [h16]
      · rw [if_pos rfl, key i hi]; simp [h16]
  rw [bit16, h]
  cases a.getLsbD 15 <;> decide

/-- The bits of a round: the shifted accumulator, with the polynomial where the old bit 15 was set. -/
theorem crcRound_getLsbD (a : Half) {i : Nat} (hi : i < 16) :
    (crcRound a).getLsbD i =
      ((decide (0 < i) && a.getLsbD (i - 1)) ^^ (a.getLsbD 15 && Config.polynomial.getLsbD i)) := by
  have shifted : (BitVec.setWidth 17 a <<< 1).getLsbD i = (decide (0 < i) && a.getLsbD (i - 1)) := by
    rw [BitVec.getLsbD_shiftLeft, BitVec.getLsbD_setWidth]
    by_cases h0 : 0 < i
    · simp [h0, show ¬ i < 1 by omega, show i < 17 by omega, show i - 1 < 17 by omega]
    · simp [show i < 1 by omega, h0]
  simp only [crcRound, bit16_shifted]
  cases h15 : a.getLsbD 15
  · rw [if_neg (by simp), BitVec.getLsbD_setWidth, shifted]; simp [hi]
  · rw [if_pos rfl, BitVec.getLsbD_setWidth, BitVec.getLsbD_xor, shifted, BitVec.getLsbD_setWidth]
    simp [hi, show i < 17 by omega]

@[simp] theorem sumFrom_nil (s : Byte) : sumFrom s [] = s := rfl
@[simp] theorem sumFrom_cons (s d : Byte) (data : List Byte) : sumFrom s (d :: data) = sumFrom (sumStep s d) data := rfl
@[simp] theorem crcFrom_nil (a : Half) : crcFrom a [] = a := rfl
@[simp] theorem crcFrom_cons (a : Half) (d : Byte) (data : List Byte) :
    crcFrom a (d :: data) = crcFrom (crcByte a d) data := rfl

theorem sumFrom_append (s : Byte) (a b : List Byte) : sumFrom s (a ++ b) = sumFrom (sumFrom s a) b := List.foldl_append
theorem crcFrom_append (x : Half) (a b : List Byte) : crcFrom x (a ++ b) = crcFrom (crcFrom x a) b := List.foldl_append

/-- A wire pair puts the second byte on top. -/
theorem fromLe_eq_append (b0 b1 : Byte) : fromLe b0 b1 = b1 ++ b0 := by
  apply BitVec.eq_of_toNat_eq
  have h0 := b0.isLt
  have h1 := b1.isLt
  rw [BitVec.toNat_append, ← Nat.shiftLeft_add_eq_or_of_lt h0, Nat.shiftLeft_eq]
  simp only [fromLe, BitVec.toNat_ofNat]
  omega

end Sys2Proof.Machine
end

