-- ==== Sys2Proof/Laws/Client.lean ====
section
/-! SUPPORT. The boundary: what a comparison answers and which buffers are payloads, said once. -/

namespace Sys2Proof.Machine

@[simp] theorem compareResult_block (data : List Byte) (r : Byte) :
    compareResult data (.block r) = if r = additiveChecksum data then .ok () else .error .checksumMismatch := rfl
@[simp] theorem compareResult_sector (data : List Byte) (b0 b1 : Byte) :
    compareResult data (.sector b0 b1) = if fromLe b0 b1 = crc16Xmodem data then .ok () else .error .checksumMismatch := rfl
@[simp] theorem verifyWrite_eq {k : WriteKind} (sent : Payload k) (reply : Reply k) :
    verifyWrite sent reply = compareResult sent.data reply := rfl
@[simp] theorem deviceProgram_eq {k : WriteKind} (received : Payload k) :
    deviceProgram received = resultProgram k received.data := rfl

/-- A buffer is a payload exactly when its length is the one of the write's kind, and then its bytes are the payload's. -/
theorem payloadOf_eq_some {k : WriteKind} {data : List Byte} {p : Payload k} : payloadOf k data = some p ↔ p.data = data := by
  cases p with
  | mk d h =>
    unfold payloadOf
    split
    · simp [eq_comm]
    · simp only [reduceCtorEq, false_iff]
      rintro rfl
      contradiction

end Sys2Proof.Machine
end

