-- ==== Sys2Proof/Laws/Operands.lean ====
section
/-! SUPPORT. Zero extension, byte lanes and concatenation. -/

namespace Sys2Proof.Machine

@[simp] theorem lane0_zext16 (b : Byte) : lane0 (zext16 b) = b := by
  apply BitVec.eq_of_getLsbD_eq
  intro i hi
  rw [lane0, zext16, BitVec.getLsbD_extractLsb', BitVec.getLsbD_setWidth]
  simp [hi]; omega

@[simp] theorem lane1_zext16 (b : Byte) : lane1 (zext16 b) = 0#8 := by
  apply BitVec.eq_of_getLsbD_eq
  intro i hi
  rw [lane1, zext16, BitVec.getLsbD_extractLsb', BitVec.getLsbD_setWidth, BitVec.getLsbD_of_ge b (8 + i) (by omega)]
  simp

theorem zext16_toNat (b : Byte) : (zext16 b).toNat = b.toNat := by
  have := b.isLt
  simp [zext16]; omega

@[simp] theorem lane0_append (b1 b0 : Byte) : lane0 (b1 ++ b0 : Half) = b0 := by
  apply BitVec.eq_of_getLsbD_eq
  intro i hi
  rw [lane0, BitVec.getLsbD_extractLsb', BitVec.getLsbD_append]
  simp [hi]

@[simp] theorem lane1_append (b1 b0 : Byte) : lane1 (b1 ++ b0 : Half) = b1 := by
  apply BitVec.eq_of_getLsbD_eq
  intro i hi
  rw [lane1, BitVec.getLsbD_extractLsb', BitVec.getLsbD_append]
  simp [hi]

/-- A 16-bit value is its two lanes. -/
theorem lanes_append (v : Half) : (lane1 v ++ lane0 v : Half) = v := by
  apply BitVec.eq_of_getLsbD_eq
  intro i hi
  rw [BitVec.getLsbD_append, lane0, lane1, BitVec.getLsbD_extractLsb', BitVec.getLsbD_extractLsb']
  by_cases h : i < 8
  · simp [h]
  · simp [h, show i - 8 < 8 by omega, show 8 + (i - 8) = i by omega]

end Sys2Proof.Machine
end

