-- ==== Sys2Proof/Laws/PerInstr.lean ====
section
/-! SUPPORT. One family of statements about every instruction as syntax: its canonical word lies in its row of
spec/opcode_table.json, whose match is `op << 8` under the mask 0x700 (30_encoding.md R37). -/

namespace Sys2Proof.Laws.RowMatch

/-- `match` of the instruction's row in spec/opcode_table.json. -/
def rowMatch : Instr → CommandWord
  | .init => 0x000#11
  | .abs _ => 0x100#11
  | .rdsum => 0x200#11
  | .rdcrc => 0x300#11
  | .rdcl => 0x400#11
  | .rdch => 0x500#11
  | .reserved6 => 0x600#11
  | .reserved7 => 0x700#11

/-- The word the encoder gives, if it gives one, matches the row. -/
def Statement (i : Instr) : Prop := ∀ w, encode i = some w → w &&& 0x700#11 = rowMatch i

theorem init : Statement .init := by
  intro w h; cases h; decide

theorem abs (d : Byte) : Statement (.abs d) := by
  intro w h; cases h; revert d; decide

theorem rdsum : Statement .rdsum := by
  intro w h; cases h; decide

theorem rdcrc : Statement .rdcrc := by
  intro w h; cases h; decide

theorem rdcl : Statement .rdcl := by
  intro w h; cases h; decide

theorem rdch : Statement .rdch := by
  intro w h; cases h; decide

theorem reserved6 : Statement .reserved6 := by
  intro w h; cases h

theorem reserved7 : Statement .reserved7 := by
  intro w h; cases h

end Sys2Proof.Laws.RowMatch
end

