-- ==== Sys2Proof/Laws/State.lean ====
section
/-! SUPPORT. What each field is after each update of the state: one lemma per field per update. -/

namespace Sys2Proof.Machine

@[simp] theorem State.clear_crc (s : State) : s.clear.crc = Config.crcInit := rfl
@[simp] theorem State.clear_sum (s : State) : s.clear.sum = Config.sumInit := rfl
@[simp] theorem State.clear_dout (s : State) : s.clear.dout = s.dout := rfl
@[simp] theorem State.clear_held (s : State) : s.clear.held = s.held := rfl
@[simp] theorem State.clear_input (s : State) : s.clear.input = s.input := rfl

@[simp] theorem State.absorb_crc (s : State) (d : Byte) : (s.absorb d).crc = crcByte s.crc d := rfl
@[simp] theorem State.absorb_sum (s : State) (d : Byte) : (s.absorb d).sum = sumStep s.sum d := rfl
@[simp] theorem State.absorb_dout (s : State) (d : Byte) : (s.absorb d).dout = s.dout := rfl
@[simp] theorem State.absorb_held (s : State) (d : Byte) : (s.absorb d).held = s.held := rfl
@[simp] theorem State.absorb_input (s : State) (d : Byte) : (s.absorb d).input = s.input := rfl

@[simp] theorem State.drive_crc (s : State) (v : Half) : (s.drive v).crc = s.crc := rfl
@[simp] theorem State.drive_sum (s : State) (v : Half) : (s.drive v).sum = s.sum := rfl
@[simp] theorem State.drive_dout (s : State) (v : Half) : (s.drive v).dout = some v := rfl
@[simp] theorem State.drive_held (s : State) (v : Half) : (s.drive v).held = s.held := rfl
@[simp] theorem State.drive_input (s : State) (v : Half) : (s.drive v).input = s.input := rfl

@[simp] theorem State.release_crc (s : State) : s.release.crc = s.crc := rfl
@[simp] theorem State.release_sum (s : State) : s.release.sum = s.sum := rfl
@[simp] theorem State.release_dout (s : State) : s.release.dout = none := rfl
@[simp] theorem State.release_held (s : State) : s.release.held = s.held := rfl
@[simp] theorem State.release_input (s : State) : s.release.input = s.input := rfl

@[simp] theorem State.applyReset_crc (s : State) : s.applyReset.crc = Config.crcInit := rfl
@[simp] theorem State.applyReset_sum (s : State) : s.applyReset.sum = Config.sumInit := rfl
@[simp] theorem State.applyReset_dout (s : State) : s.applyReset.dout = none := rfl
@[simp] theorem State.applyReset_held (s : State) : s.applyReset.held = none := rfl
@[simp] theorem State.applyReset_input (s : State) : s.applyReset.input = s.input := rfl

@[simp] theorem State.noAccept_crc (s : State) (e : Edge) : (s.noAccept e).crc = s.crc := rfl
@[simp] theorem State.noAccept_sum (s : State) (e : Edge) : (s.noAccept e).sum = s.sum := rfl
@[simp] theorem State.noAccept_dout (s : State) (e : Edge) : (s.noAccept e).dout = none := rfl
@[simp] theorem State.noAccept_held (s : State) (e : Edge) : (s.noAccept e).held = if e.cmdValid then some e.cmd else none := rfl
@[simp] theorem State.noAccept_input (s : State) (e : Edge) : (s.noAccept e).input = s.input := rfl

end Sys2Proof.Machine
end

