-- ==== Sys2Proof/Laws/Step.lean ====
section
/-! SUPPORT. Everything an operation, a clock edge and a step can do, said once. -/

namespace Sys2Proof.Machine

@[simp] theorem exec_init (s : State) : exec .init s = .next s.clear.release := rfl
@[simp] theorem exec_abs (d : Byte) (s : State) : exec (.abs d) s = .next (s.absorb d).release := rfl
@[simp] theorem exec_rdsum (s : State) : exec .rdsum s = .next (s.drive (zext16 s.sum)) := rfl
@[simp] theorem exec_rdcrc (s : State) : exec .rdcrc s = .next (s.drive s.crc) := rfl
@[simp] theorem exec_rdcl (s : State) : exec .rdcl s = .next (s.drive (zext16 (lane0 s.crc))) := rfl
@[simp] theorem exec_rdch (s : State) : exec .rdch s = .next (s.drive (zext16 (lane1 s.crc))) := rfl
@[simp] theorem exec_reserved6 (s : State) : exec .reserved6 s = .refused (.reservedOpcode 6) := rfl
@[simp] theorem exec_reserved7 (s : State) : exec .reserved7 s = .refused (.reservedOpcode 7) := rfl

/-- An operation that answers is one of the six, with its own effect. -/
theorem exec_cases {i : Instr} {s t : State} (h : exec i s = .next t) :
    (i = .init ∧ t = s.clear.release) ∨ (∃ d, i = .abs d ∧ t = (s.absorb d).release) ∨
    (i = .rdsum ∧ t = s.drive (zext16 s.sum)) ∨ (i = .rdcrc ∧ t = s.drive s.crc) ∨
    (i = .rdcl ∧ t = s.drive (zext16 (lane0 s.crc))) ∨ (i = .rdch ∧ t = s.drive (zext16 (lane1 s.crc))) := by
  cases i <;> simp_all [eq_comm]

/-- A reset edge. -/
theorem clockEdge_reset {e : Edge} (s : State) (hr : e.rst = true) : clockEdge e s = .next s.applyReset := by
  simp [clockEdge, hr]

/-- An edge on which the handshake is broken. -/
theorem clockEdge_broken {e : Edge} {s : State} (hr : e.rst = false) (hb : breaksHandshake s.held e = true) :
    clockEdge e s = .refused .brokenHandshake := by
  simp [clockEdge, hr, hb]

/-- An accepting edge. -/
theorem clockEdge_accept {e : Edge} {s : State} (hb : breaksHandshake s.held e = false) (ha : e.accepts = true) :
    clockEdge e s = exec (decode e.cmd) { s with held := none } := by
  have hr : e.rst = false := by cases h : e.rst <;> simp_all [Edge.accepts]
  simp [clockEdge, hr, hb, ha]

/-- An edge on which nothing is accepted. -/
theorem clockEdge_noAccept {e : Edge} {s : State} (hr : e.rst = false) (hb : breaksHandshake s.held e = false)
    (ha : e.accepts = false) : clockEdge e s = .next (s.noAccept e) := by
  simp [clockEdge, hr, hb, ha]

/-- Everything a clock edge can do when it answers a state. -/
theorem clockEdge_cases {e : Edge} {s t : State} (h : clockEdge e s = .next t) :
    (e.rst = true ∧ t = s.applyReset) ∨
    (e.rst = false ∧ breaksHandshake s.held e = false ∧ e.accepts = true ∧
      exec (decode e.cmd) { s with held := none } = .next t) ∨
    (e.rst = false ∧ breaksHandshake s.held e = false ∧ e.accepts = false ∧ t = s.noAccept e) := by
  cases hr : e.rst with
  | true => rw [clockEdge_reset s hr] at h; cases h; simp
  | false =>
    cases hb : breaksHandshake s.held e with
    | true => rw [clockEdge_broken hr hb] at h; cases h
    | false =>
      cases ha : e.accepts with
      | true => rw [clockEdge_accept hb ha] at h; simp [h]
      | false => rw [clockEdge_noAccept hr hb ha] at h; cases h; simp

/-- The event of an edge, by the same three cases. -/
theorem Edge.event_of_rst {e : Edge} (hr : e.rst = true) : e.event = some .reset := by simp [Edge.event, hr]

theorem Edge.event_of_accepts {e : Edge} (ha : e.accepts = true) : e.event = some (.command e.cmd) := by
  have hr : e.rst = false := by cases h : e.rst <;> simp_all [Edge.accepts]
  simp [Edge.event, hr, ha]

theorem Edge.event_of_not {e : Edge} (hr : e.rst = false) (ha : e.accepts = false) : e.event = none := by
  simp [Edge.event, hr, ha]

@[simp] theorem nextEdge_nil {s : State} (h : s.input = []) : nextEdge s = (Edge.quiet, s) := by
  simp [nextEdge, h]

@[simp] theorem nextEdge_cons {s : State} {e : Edge} {rest : List Edge} (h : s.input = e :: rest) :
    nextEdge s = (e, { s with input := rest }) := by
  simp [nextEdge, h]

/-- A step takes the first listed edge. -/
theorem step_cons {s : State} {e : Edge} {rest : List Edge} (h : s.input = e :: rest) :
    step s = clockEdge e { s with input := rest } := by
  simp [step, nextEdge_cons h]

/-- With nothing listed a step accepts nothing. -/
theorem step_nil {s : State} (h : s.input = []) : step s = .next (s.noAccept Edge.quiet) := by
  have hb : breaksHandshake s.held Edge.quiet = false := by
    cases hh : s.held <;> simp [breaksHandshake, Edge.quiet]
  simp only [step, nextEdge_nil h]
  exact clockEdge_noAccept rfl hb rfl

/-- Everything a step can do when it answers a state, the edge being the next one listed or a quiet one. -/
theorem step_cases {s t : State} (h : step s = .next t) :
    ((nextEdge s).1.rst = true ∧ t = (nextEdge s).2.applyReset) ∨
    ((nextEdge s).1.accepts = true ∧ breaksHandshake s.held (nextEdge s).1 = false ∧
      exec (decode (nextEdge s).1.cmd) { (nextEdge s).2 with held := none } = .next t) ∨
    ((nextEdge s).1.rst = false ∧ (nextEdge s).1.accepts = false ∧ t = (nextEdge s).2.noAccept (nextEdge s).1) := by
  have hh : (nextEdge s).2.held = s.held := by unfold nextEdge; split <;> rfl
  rcases clockEdge_cases h with h | ⟨_, hb, ha, hx⟩ | ⟨hr, _, ha, ht⟩
  · exact .inl h
  · exact .inr (.inl ⟨ha, hh ▸ hb, hx⟩)
  · exact .inr (.inr ⟨hr, ha, ht⟩)

/-- The state in which the next edge arrives differs only in the list. -/
@[simp] theorem nextEdge_crc (s : State) : (nextEdge s).2.crc = s.crc := by unfold nextEdge; split <;> rfl
@[simp] theorem nextEdge_sum (s : State) : (nextEdge s).2.sum = s.sum := by unfold nextEdge; split <;> rfl
@[simp] theorem nextEdge_dout (s : State) : (nextEdge s).2.dout = s.dout := by unfold nextEdge; split <;> rfl
@[simp] theorem nextEdge_held (s : State) : (nextEdge s).2.held = s.held := by unfold nextEdge; split <;> rfl
@[simp] theorem nextEdge_input (s : State) : (nextEdge s).2.input = s.input.tail := by
  unfold nextEdge; split <;> simp_all

end Sys2Proof.Machine
end

