-- ==== Sys2Proof/Laws/Run.lean ====
section
/-! SUPPORT. Runs unfolded one step at a time, and an accepted word against the spec's own step. -/

namespace Sys2Proof.Machine

@[simp] theorem runSteps_zero (s : State) : runSteps 0 s = .next (s, []) := rfl

/-- A step and then the rest of the run. -/
theorem runSteps_succ {s t u : State} {n : Nat} {outs : List Half} (h : step s = .next t)
    (hr : runSteps n t = .next (u, outs)) : runSteps (n + 1) s = .next (u, t.dout.toList ++ outs) := by
  simp [runSteps, h, hr]

/-- The operation of a word that a host may present answers what the spec's step says, and leaves the ports' fields. -/
theorem exec_decode_wellFormed {w : CommandWord} (s : State) (hw : (decode w).wellFormed = true) :
    ∃ t, exec (decode w) s = .next t ∧ specStep s.registers w = some (t.registers, t.dout) ∧
      t.held = s.held ∧ t.input = s.input := by
  unfold specStep
  cases hd : decode w <;> simp_all [Instr.wellFormed, State.registers, Config.crcInit, Config.sumInit]

/-- A host that keeps its table does not break the handshake on the next edge, and an accepted word is one of the six operations. -/
theorem hostKeepsRules_cons {held : Option CommandWord} {e : Edge} {es : List Edge}
    (h : Safety.hostKeepsRules held (e :: es) = true) :
    (e.rst = true ∧ Safety.hostKeepsRules none es = true) ∨
    (e.rst = false ∧ e.cmdValid = false ∧ breaksHandshake held e = false ∧ Safety.hostKeepsRules none es = true) ∨
    (e.rst = false ∧ e.cmdValid = true ∧ breaksHandshake held e = false ∧ (decode e.cmd).wellFormed = true ∧
      Safety.hostKeepsRules (if e.cmdReady then none else some e.cmd) es = true) := by
  simp only [Safety.hostKeepsRules] at h
  cases hr : e.rst with
  | true => simp_all
  | false =>
    cases hv : e.cmdValid with
    | true => simp_all
    | false =>
      have hb : breaksHandshake held e = false := by cases held <;> simp [breaksHandshake, hv]
      simp_all

/-- Words that a host may present, each accepted at once, present their own program from every state with no word on the port. -/
theorem presents_words {s : State} {ws : List CommandWord} (hh : s.held = none) (hi : s.input = presentWords ws)
    (hw : ∀ w ∈ ws, (decode w).wellFormed = true) : Safety.Presents s (ws.map decode) := by
  rw [Safety.Presents, hh, hi]
  clear hh hi
  induction ws with
  | nil => exact ⟨rfl, rfl⟩
  | cons w ws ih =>
    obtain ⟨hk, he⟩ := ih fun v hv => hw v (List.mem_cons_of_mem _ hv)
    constructor
    · simpa [presentWords, Edge.accept, Safety.hostKeepsRules, breaksHandshake, hw w List.mem_cons_self] using hk
    · simpa [presentWords, Edge.accept, eventsOf, Edge.event, Edge.accepts, Event.instr] using he

end Sys2Proof.Machine
end

