-- ==== Sys2Proof/Tests/Slice0.lean ====
section
/-! SUPPORT. Tests. Expected values are the spec's own: the tables of 95_test_vectors.md, the values of 41_absorb.md, the examples of
40_init.md, 42_read.md and 30_encoding.md; the comment before each group names its source. The witnesses at the end show that the
hypotheses of the statements can be met. -/

namespace Sys2Proof.Tests

open Sys2Proof.Machine Sys2Proof.Safety

/-- The state of a step's answer. -/
def after (o : Host.Outcome State Fault Refusal) : Option State :=
  match o with
  | .next s => some s
  | .fault _ => none
  | .refused _ => none

/-- The refusal of a step. -/
def refusalOf (o : Host.Outcome State Fault Refusal) : Option Refusal :=
  match o with
  | .next _ => none
  | .fault _ => none
  | .refused r => some r

/-- The registers and the output that a command word leaves, presented to a block with the given registers. -/
def runWord (crc : Half) (sum : Byte) (w : Nat) : Option (Half × Byte × Option Half) :=
  (after (step ({ State.reset with crc := crc, sum := sum }.withFetchWord 16 w))).map fun s => (s.crc, s.sum, s.dout)

/-- A block with the registers of "123456789" absorbed, and what the ports carry next. -/
def busy (input : List Edge) : State := { State.reset with crc := 0x31C3#16, sum := 0xDD#8, input := input }

/-- The nine bytes of "123456789". -/
def nine : List Byte := [0x31#8, 0x32#8, 0x33#8, 0x34#8, 0x35#8, 0x36#8, 0x37#8, 0x38#8, 0x39#8]

/-! ## Well-formedness: each check refuses an ill-formed term -/

theorem test_wellFormed_refuses_reserved6 : Instr.wellFormed .reserved6 = false := by decide
theorem test_wellFormed_refuses_reserved7 : Instr.wellFormed .reserved7 = false := by decide
theorem test_wellFormed_accepts_abs : Instr.wellFormed (.abs 0xFF#8) = true := by decide

/-! ## Decoding: words written out from 30_encoding.md R37, and the non-canonical words of 95_test_vectors.md section 2.4 -/

theorem test_decode_init : decode 0b00000000000#11 = .init := by decide
theorem test_decode_abs : decode 0b00100110001#11 = .abs 0x31#8 := by decide
theorem test_decode_rdsum : decode 0b01001111110#11 = .rdsum := by decide
theorem test_decode_rdcrc : decode 0b01111111111#11 = .rdcrc := by decide
theorem test_decode_rdcl : decode 0b10011000011#11 = .rdcl := by decide
theorem test_decode_rdch : decode 0b10111111111#11 = .rdch := by decide
theorem test_decode_reserved6 : decode 0b11011111111#11 = .reserved6 := by decide
theorem test_decode_reserved7 : decode 0b11100000000#11 = .reserved7 := by decide
theorem test_decode_container : decodeTableWord 16 0xF131 = some (.abs 0x31#8) := by decide
theorem test_encode_abs : encode (.abs 0xFF#8) = some 0x1FF#11 := by decide
theorem test_encode_rdch : encode .rdch = some 0x500#11 := by decide

/-! ## The operations: 95_test_vectors.md sections 2.1, 2.2, 2.3 and program P7 -/

theorem test_init_clears : runWord 0x31C3#16 0xDD#8 0x000 = some (0x0000#16, 0x00#8, none) := by decide
theorem test_init_noncanonical : runWord 0x1234#16 0x56#8 0x05A = some (0x0000#16, 0x00#8, none) := by decide
theorem test_abs_wraps_the_sum : runWord 0xFFFF#16 0xFF#8 0x1FF = some (0xFF00#16, 0xFE#8, none) := by decide
theorem test_abs_arbitrary : runWord 0xABCD#16 0xEF#8 0x17F = some (0x46F9#16, 0x6E#8, none) := by decide
theorem test_rdsum : runWord 0x31C3#16 0xDD#8 0x2FF = some (0x31C3#16, 0xDD#8, some 0x00DD#16) := by decide
theorem test_rdcrc : runWord 0x8001#16 0x7F#8 0x300 = some (0x8001#16, 0x7F#8, some 0x8001#16) := by decide
theorem test_rdcl : runWord 0x31C3#16 0xDD#8 0x401 = some (0x31C3#16, 0xDD#8, some 0x00C3#16) := by decide
theorem test_rdch : runWord 0x31C3#16 0xDD#8 0x580 = some (0x31C3#16, 0xDD#8, some 0x0031#16) := by decide
theorem test_reserved6_refused :
    refusalOf (step (State.reset.withFetchWord 16 0x600)) = some (.reservedOpcode 6) := by decide
theorem test_reserved7_refused :
    refusalOf (step (State.reset.withFetchWord 16 0x7FF)) = some (.reservedOpcode 7) := by decide

/-! ## The port: 95_test_vectors.md section 2.6; 30_encoding.md R44; 93_implementation_defined.md U5 -/

theorem test_reset_wins_over_a_word :
    after (step (busy [{ rst := true, cmdValid := true, cmdReady := true, cmd := 0x141#11 }])) = some State.reset := by decide
theorem test_not_ready_keeps_the_word :
    after (step (busy [Edge.wait 0x300#11])) = some { busy [] with held := some 0x300#11 } := by decide
theorem test_withdrawn_word_is_not_taken :
    after (step { busy [] with held := some 0x000#11 }) = some (busy []) := by decide
theorem test_changed_word_is_refused :
    refusalOf (step { busy [Edge.accept 0x300#11] with held := some 0x200#11 }) = some .brokenHandshake := by decide
theorem test_output_is_not_held :
    after (step { busy [] with dout := some 0x31C3#16 }) = some (busy []) := by decide

/-! ## The arithmetic: the values of 41_absorb.md and 95_test_vectors.md sections 2.5, 3.1, 3.2 and 3.6; 70_reset_and_hazards.md R92 -/

theorem test_sumStep : sumStep 0xA5#8 0x5C#8 = 0x01#8 := by decide
theorem test_crcXorin : crcXorin 0x31C3#16 0xC3#8 = 0xF2C3#16 := by decide
theorem test_crcRound_set : crcRound 0xAAAA#16 = 0x4575#16 := by decide
theorem test_crcRound_clear : crcRound 0x7FFF#16 = 0xFFFE#16 := by decide
theorem test_crcByte : crcByte 0x1EF0#16 0xFF#8 = 0x1D0F#16 := by decide
theorem test_crcTable : crcTable 0x31#8 = 0x2672#16 := by decide
theorem test_crcByteTable : crcByteTable 0x2672#16 0x32#8 = 0x20B5#16 := by decide
theorem test_check_value : crc16Xmodem nine = 0x31C3#16 := by decide +kernel
theorem test_check_sum : additiveChecksum nine = 0xDD#8 := by decide
theorem test_chaining : crcFrom 0x546C#16 [0x36#8, 0x37#8, 0x38#8, 0x39#8] = 0x31C3#16 := by decide +kernel
theorem test_interleaved : crc16Xmodem [0x31#8, 0x41#8, 0x32#8, 0x42#8] = 0x7BB1#16 := by decide +kernel
theorem test_leBytes : leBytes 0x31C3#16 = [0xC3#8, 0x31#8] := by decide
theorem test_fixed_point : crcByte 0xF01F#16 0x00#8 = 0xF01F#16 := by decide

/-! ## The assembler: 30_encoding.md R46, R47, R49 and 95_test_vectors.md section 2.4 -/

theorem test_assemble_example :
    assemble ['I', 'N', 'I', 'T', '\n', 'A', 'B', 'S', ' ', '\'', '1', '\'', '\n', 'A', 'B', 'S', ' ', '0', 'x', '3', '2', '\n',
      'R', 'D', 'C', 'R', 'C', ' ', ' ', ';', ' ', 'g', 'i', 'v', 'e', 's'] =
      .ok [0x000#11, 0x131#11, 0x132#11, 0x300#11] := by rfl
theorem test_assemble_out_of_range : assemble ['A', 'B', 'S', ' ', '2', '5', '6'] = .error .outOfRange := by rfl
theorem test_assemble_largest_byte : assemble ['A', 'B', 'S', ' ', '2', '5', '5'] = .ok [0x1FF#11] := by rfl
theorem test_assemble_negative : assemble ['A', 'B', 'S', ' ', '-', '1'] = .error .badOperand := by rfl
theorem test_assemble_crc16le :
    assemble ['C', 'R', 'C', '1', '6', 'L', 'E', ' ', '[', '0', 'x', 'D', 'E', ',', ' ', '1', '7', '3', ']'] =
      .ok [0x000#11, 0x1DE#11, 0x1AD#11, 0x400#11, 0x500#11] := by rfl
theorem test_assemble_string :
    assemble ['S', 'U', 'M', '8', ' ', '"', '1', ';', '"'] = .ok [0x000#11, 0x131#11, 0x13B#11, 0x200#11] := by rfl
theorem test_listing : listing 0x1DE#11 = ['0', 'x', '1', 'D', 'E'] := by decide

/-! ## The boundary: 43_functions.md R74 and R75, program P1 and program P6 of 95_test_vectors.md -/

theorem test_verify_accepts : compareResult nine (.sector 0xC3#8 0x31#8) = .ok () := by decide +kernel
theorem test_verify_rejects_swapped : compareResult nine (.sector 0x31#8 0xC3#8) = .error .checksumMismatch := by decide +kernel
theorem test_verify_block : compareResult nine (.block 0xDD#8) = .ok () := by rfl
theorem test_short_payload_is_none : payloadOf .block nine = none := by rfl

/-! ## Witnesses: the hypotheses of each statement can be met -/

/-- A block on whose port `held` is presented and not yet accepted, and one next edge. -/
def waiting (held : Option CommandWord) (e : Edge) : State := { busy [e] with held := held }

/-- ResetEdgeWins, StepRunsTheAcceptedCommand, and the two ways of UnacceptedEdgeChangesNothing. -/
theorem witness_reset_edge :
    (waiting (some 0x300#11) Edge.reset).input = Edge.reset :: [] ∧ Edge.reset.rst = true := by decide
theorem witness_accepted_word :
    (waiting (some 0x131#11) (Edge.accept 0x131#11)).input = Edge.accept 0x131#11 :: [] ∧
    breaksHandshake (waiting (some 0x131#11) (Edge.accept 0x131#11)).held (Edge.accept 0x131#11) = false ∧
    (Edge.accept 0x131#11).rst = false ∧ (Edge.accept 0x131#11).cmdValid = true ∧ (Edge.accept 0x131#11).cmdReady = true := by
  decide
theorem witness_unaccepted_not_ready :
    (waiting none (Edge.wait 0x131#11)).input = Edge.wait 0x131#11 :: [] ∧
    breaksHandshake (waiting none (Edge.wait 0x131#11)).held (Edge.wait 0x131#11) = false ∧
    (Edge.wait 0x131#11).rst = false ∧ ((Edge.wait 0x131#11).cmdValid = false ∨ (Edge.wait 0x131#11).cmdReady = false) := by
  decide
theorem witness_unaccepted_not_valid :
    (waiting (some 0x131#11) Edge.quiet).input = Edge.quiet :: [] ∧
    breaksHandshake (waiting (some 0x131#11) Edge.quiet).held Edge.quiet = false ∧
    Edge.quiet.rst = false ∧ (Edge.quiet.cmdValid = false ∨ Edge.quiet.cmdReady = false) := by decide
theorem witness_nothing_listed : (busy []).input = [] := by decide

/-- PlacedWordRunsNext, at the smallest container. -/
theorem witness_container : 11 ≤ 11 := by decide

/-- ChangedWordIsRefused. -/
theorem witness_changed_word :
    (waiting (some 0x200#11) (Edge.wait 0x300#11)).input = Edge.wait 0x300#11 :: [] ∧
    (waiting (some 0x200#11) (Edge.wait 0x300#11)).held = some 0x200#11 ∧ (Edge.wait 0x300#11).rst = false ∧
    (Edge.wait 0x300#11).cmdValid = true ∧ (Edge.wait 0x300#11).cmd ≠ 0x200#11 := by decide

/-- RdsumOutputsTheSum, RdcrcOutputsTheCrc, StepKeepsTheStreamInvariant: a state that reflects a stream, and its step. -/
theorem witness_reflects : Reflects (busy [Edge.accept 0x131#11]) nine := by
  constructor <;> decide +kernel
theorem witness_reflects_step :
    (after (step (busy [Edge.accept 0x131#11]))).map State.crc = some 0xC300#16 := by decide

/-- ReservedWordsAreRefused at its boundary, EveryOperationCompletes, OperationFrame, ReadsAreRepeatable, UnusedOperandIsIgnored. -/
theorem witness_last_word_with_a_meaning : (decode 0x5FF#11).wellFormed = true ∧ (decode 0x600#11).wellFormed = false := by decide
theorem witness_frame_read : after (exec .rdsum (busy [])) = some { busy [] with dout := some 0x00DD#16 } := by decide
theorem witness_frame_write : (after (exec .init (busy []))).map State.dout = some none := by decide
theorem witness_unused_operand : (5 : Opcode) ≠ 1 ∧ (5 : Opcode).toNat ≤ 5 := by decide

/-- DecodeAndEncodeAgree: a word that is canonical and one that is not. -/
theorem witness_canonical : isCanonical 0x1FF#11 = true ∧ isCanonical 0x0FF#11 = false ∧ isCanonical 0x600#11 = false := by decide

/-- ZeroByteAlwaysChangesNonzeroCrc. -/
theorem witness_nonzero_crc : (busy []).crc ≠ 0x0000#16 := by decide

/-- LawsOfTheSum: a reordering, two unequal bytes, and two changes that cancel. -/
theorem witness_reordering : [0x31#8, 0x32#8].Perm [0x32#8, 0x31#8] := by decide
theorem witness_cancelling :
    ((((0x30#8).toNat : Int) - (0x31#8).toNat) + (((0x33#8).toNat : Int) - (0x32#8).toNat)) % 256 = 0 := by decide

/-- CrcIsLinear, CrcDetectsOneChangedByte. -/
theorem witness_equal_lengths : [0xDE#8, 0xAD#8].length = [0xAB#8, 0xCD#8].length ∧ 0x34#8 ≠ 0x24#8 := by decide

/-- A state whose edges present a program with waiting, a gap and a non-canonical read. -/
def presenting (words : List CommandWord) : State :=
  busy (Edge.wait 0x000#11 :: Edge.accept 0x000#11 :: Edge.quiet :: presentWords words)

/-- SequencesComputeTheFunctions, WriteVerificationDetectsOneChangedByte. -/
theorem witness_presents_sum8 : Presents (presenting [0x131#11, 0x2FF#11]) (sum8 [0x31#8]) := by
  constructor <;> decide
theorem witness_presents_crc16 : Presents (presenting [0x131#11, 0x300#11]) (crc16 [0x31#8]) := by
  constructor <;> decide
theorem witness_presents_crc16Le : Presents (presenting [0x131#11, 0x400#11, 0x500#11]) (resultProgram .sector [0x31#8]) := by
  constructor <;> decide

/-- A payload of one byte over and over, of either kind. -/
def uniformPayload (k : WriteKind) (b : Byte) : Payload k := ⟨List.replicate k.payloadLength b, List.length_replicate⟩

/-- A host that presents the device's program for `n` bytes 0x31, each word accepted at once. -/
def uniformWords (n : Nat) (reads : List CommandWord) : State :=
  { State.reset with input := presentWords (0x000#11 :: (List.replicate n 0x131#11 ++ reads)) }

theorem witness_block_of_length (n : Nat) :
    Presents (uniformWords n [0x200#11]) (resultProgram .block (List.replicate n 0x31#8)) := by
  have hd : decode 0x131#11 = .abs 0x31#8 ∧ decode 0x000#11 = .init ∧ decode 0x200#11 = .rdsum := by decide
  have := presents_words (s := uniformWords n [0x200#11]) rfl rfl (by
    simp only [List.mem_cons, List.mem_append, List.mem_replicate, List.not_mem_nil, or_false]
    rintro _ (rfl | ⟨_, rfl⟩ | rfl) <;> decide)
  simpa [hd, resultProgram, sum8, absN] using this
theorem witness_sector_of_length (n : Nat) :
    Presents (uniformWords n [0x400#11, 0x500#11]) (resultProgram .sector (List.replicate n 0x31#8)) := by
  have hd : decode 0x131#11 = .abs 0x31#8 ∧ decode 0x000#11 = .init ∧ decode 0x400#11 = .rdcl ∧ decode 0x500#11 = .rdch := by decide
  have := presents_words (s := uniformWords n [0x400#11, 0x500#11]) rfl rfl (by
    simp only [List.mem_cons, List.mem_append, List.mem_replicate, List.not_mem_nil, or_false]
    rintro _ (rfl | ⟨_, rfl⟩ | rfl | rfl) <;> decide)
  simpa [hd, resultProgram, crc16Le, emitLe, absN] using this
theorem witness_device_block : Presents (uniformWords 256 [0x200#11]) (deviceProgram (uniformPayload .block 0x31#8)) :=
  witness_block_of_length 256
theorem witness_device_sector :
    Presents (uniformWords 4096 [0x400#11, 0x500#11]) (deviceProgram (uniformPayload .sector 0x31#8)) :=
  witness_sector_of_length 4096

/-- A payload that differs from the uniform one in its last byte alone. -/
theorem witness_changed_payload :
    ∃ sent : Payload .block, (uniformPayload .block 0x31#8).data = List.replicate 255 0x31#8 ++ 0x31#8 :: [] ∧
      sent.data = List.replicate 255 0x31#8 ++ 0x32#8 :: [] ∧ (0x31#8 : Byte) ≠ 0x32#8 :=
  ⟨⟨List.replicate 255 0x31#8 ++ 0x32#8 :: [], by rw [List.length_append, List.length_replicate]; rfl⟩,
    List.replicate_succ', rfl, by decide⟩
theorem witness_presents_after_reset :
    ({ State.reset with input := presentWords [0x131#11, 0x200#11, 0x300#11, 0x400#11, 0x500#11] } : State).registers =
      State.reset.registers ∧
    Presents { State.reset with input := presentWords [0x131#11, 0x200#11, 0x300#11, 0x400#11, 0x500#11] }
      (absN [0x31#8] ++ [.rdsum, .rdcrc, .rdcl, .rdch]) := by
  refine ⟨by decide, ?_⟩
  constructor <;> decide

/-- MissingInitConcatenates, InterleavedBuffersAreOneStream, TornPairMixesTwoValues, ReadsDoNotDisturbTheRun. -/
theorem witness_missing_init :
    Presents (presenting [0x131#11, 0x300#11, 0x200#11, 0x132#11, 0x300#11, 0x200#11])
      (.init :: absN [0x31#8] ++ [.rdcrc, .rdsum] ++ absN [0x32#8] ++ [.rdcrc, .rdsum]) := by
  constructor <;> decide
theorem witness_interleaved :
    [0x31#8, 0x41#8, 0x32#8, 0x42#8].Perm ([0x31#8, 0x32#8] ++ [0x41#8, 0x42#8]) ∧
    Presents (presenting [0x131#11, 0x141#11, 0x132#11, 0x142#11, 0x200#11, 0x300#11])
      (.init :: absN [0x31#8, 0x41#8, 0x32#8, 0x42#8] ++ [.rdsum, .rdcrc]) := by
  refine ⟨by decide, ?_⟩
  constructor <;> decide
theorem witness_torn_pair :
    Presents (presenting [0x131#11, 0x400#11, 0x132#11, 0x500#11])
      (.init :: absN [0x31#8] ++ [.rdcl] ++ absN [0x32#8] ++ [.rdch]) := by
  constructor <;> decide
theorem witness_reads_removed :
    (busy (presentWords [0x131#11, 0x300#11, 0x132#11])).registers = (busy (presentWords [0x131#11, 0x132#11])).registers ∧
    Presents (busy (presentWords [0x131#11, 0x300#11, 0x132#11])) [.abs 0x31#8, .rdcrc, .abs 0x32#8] ∧
    Presents (busy (presentWords [0x131#11, 0x132#11]))
      ([Instr.abs 0x31#8, .rdcrc, .abs 0x32#8].filter fun i => !isRead i) := by
  refine ⟨by decide, ?_, ?_⟩ <;> constructor <;> decide

/-- RunsFollowTheSpecStep, TimingIsInvisible, HostThatKeepsTheRulesIsNeverRefused, StepKeepsTheHostTable: two timings of the same
events, one of them with a reset that meets a presented word. -/
theorem witness_host_rules :
    hostKeepsRules none [Edge.wait 0x131#11, Edge.wait 0x131#11, Edge.accept 0x131#11, Edge.quiet, Edge.wait 0x200#11,
      Edge.reset, Edge.accept 0x300#11] = true ∧
    hostKeepsRules none [Edge.accept 0x131#11, Edge.reset, Edge.accept 0x300#11] = true ∧
    eventsOf [Edge.wait 0x131#11, Edge.wait 0x131#11, Edge.accept 0x131#11, Edge.quiet, Edge.wait 0x200#11, Edge.reset,
      Edge.accept 0x300#11] = eventsOf [Edge.accept 0x131#11, Edge.reset, Edge.accept 0x300#11] := by decide
theorem witness_any_word_on_a_reset_edge :
    hostKeepsRules (some 0x200#11) [{ rst := true, cmdValid := true, cmdReady := true, cmd := 0x600#11 }] = true := by decide
theorem witness_host_breaks_rules :
    hostKeepsRules none [Edge.accept 0x600#11] = false ∧
    hostKeepsRules none [Edge.wait 0x131#11, Edge.accept 0x132#11] = false := by decide

/-- CrcAndSumAreTheWholeState, RegistersAreIndependent: states that differ in `dout`, and in one register, and step. -/
theorem witness_differ_in_dout :
    (busy []).crc = ({ busy [] with dout := some 0x0001#16 } : State).crc ∧ busy [] ≠ { busy [] with dout := some 0x0001#16 } := by
  decide
theorem witness_differ_in_sum :
    (after (step (busy [Edge.accept 0x131#11]))).isSome = true ∧
    (after (step { busy [Edge.accept 0x131#11] with sum := 0x00#8 })).isSome = true := by decide

/-- WriteVerificationDetectsOneChangedByte: a payload and a changed byte in it. -/
theorem witness_changed_byte : nine = [0x31#8] ++ 0x32#8 :: nine.drop 2 ∧ 0x32#8 ≠ 0x33#8 := by decide

/-- AssemblerEmitsCanonicalWords. -/
theorem witness_assembles : assemble ['R', 'D', 'C', 'H'] = .ok [0x500#11] := by rfl

/-- ListingDeterminesTheWord. -/
theorem witness_listing : listing 0x000#11 = listing 0x000#11 := by rfl

end Sys2Proof.Tests
end

section
/-! PROOFS. The state family (10_state.md): the stream invariant of R19, that `CRC` and `SUM` are the whole state (R12, R16), the
reset values (R18) and the frame of the operations (R20). -/

namespace Sys2Proof.Machine

/-! ## The stream invariant, update by update -/

/-- Appending a byte to a stream is one byte step of the CRC. -/
theorem crc16Xmodem_concat (S : List Byte) (d : Byte) : crc16Xmodem (S ++ [d]) = crcByte (crc16Xmodem S) d :=
  crcFrom_append _ S [d]

/-- Appending a byte to a stream is one step of the sum. -/
theorem additiveChecksum_concat (S : List Byte) (d : Byte) : additiveChecksum (S ++ [d]) = sumStep (additiveChecksum S) d :=
  sumFrom_append _ S [d]

/-- Registers at their starting values hold the two functions of the empty stream. -/
theorem reflects_nil {s : State} (hcrc : s.crc = Config.crcInit) (hsum : s.sum = Config.sumInit) : Reflects s [] :=
  ⟨hcrc, hsum⟩

/-- `Reflects` speaks of the registers only. -/
theorem Reflects.congr {s t : State} {S : List Byte} (h : Reflects s S) (hcrc : t.crc = s.crc) (hsum : t.sum = s.sum) :
    Reflects t S :=
  ⟨hcrc.trans h.1, hsum.trans h.2⟩

/-- Absorbing a byte appends it to the stream. -/
theorem Reflects.absorb {s : State} {S : List Byte} (h : Reflects s S) (d : Byte) : Reflects (s.absorb d) (S ++ [d]) := by
  obtain ⟨hcrc, hsum⟩ := h
  exact ⟨by rw [State.absorb_crc, hcrc, crc16Xmodem_concat], by rw [State.absorb_sum, hsum, additiveChecksum_concat]⟩

/-- Every operation keeps the stream invariant, the stream changing as R19 says. -/
theorem Reflects.exec {i : Instr} {s t : State} {S : List Byte} (h : Reflects s S) (hx : exec i s = .next t) :
    Reflects t (streamAfter S i) := by
  obtain ⟨rfl, rfl⟩ | ⟨d, rfl, rfl⟩ | ⟨rfl, rfl⟩ | ⟨rfl, rfl⟩ | ⟨rfl, rfl⟩ | ⟨rfl, rfl⟩ := exec_cases hx
  case inl => exact reflects_nil rfl rfl
  case inr.inl => exact (h.absorb d).congr rfl rfl
  all_goals exact h.congr rfl rfl

/-! ## What `dout` carried before is never read -/

theorem exec_with_dout (i : Instr) (s : State) (d : Option Half) : exec i { s with dout := d } = exec i s := by
  cases i <;> rfl

theorem clockEdge_with_dout (e : Edge) (s : State) (d : Option Half) :
    clockEdge e { s with dout := d } = clockEdge e s := by
  have accepted := exec_with_dout (decode e.cmd) { s with held := none } d
  unfold clockEdge
  rw [← accepted]
  rfl

theorem nextEdge_with_dout (s : State) (d : Option Half) :
    nextEdge { s with dout := d } = ((nextEdge s).1, { (nextEdge s).2 with dout := d }) := by
  obtain ⟨_, _, _, _, _ | ⟨e, rest⟩⟩ := s <;> rfl

theorem step_with_dout (s : State) (d : Option Half) : step { s with dout := d } = step s := by
  simp only [step, nextEdge_with_dout, clockEdge_with_dout]

/-- A run of at least one step depends on its first state only through that state's step. -/
theorem runSteps_succ_congr {s s' : State} (n : Nat) (h : step s = step s') : runSteps (n + 1) s = runSteps (n + 1) s' := by
  simp only [runSteps, h]

/-! ## The frame of the operations -/

theorem zext16_toNat_lt (b : Byte) : (zext16 b).toNat < 256 := by
  rw [zext16_toNat]
  exact b.isLt

/-- No operation touches what stands on the input ports. -/
theorem exec_keeps_port {i : Instr} {s t : State} (h : exec i s = .next t) : t.held = s.held ∧ t.input = s.input := by
  obtain ⟨-, rfl⟩ | ⟨d, -, rfl⟩ | ⟨-, rfl⟩ | ⟨-, rfl⟩ | ⟨-, rfl⟩ | ⟨-, rfl⟩ := exec_cases h <;> exact ⟨rfl, rfl⟩

/-- A read drives one value, a byte unless it is `RDCRC`, and does nothing else. -/
theorem exec_read_drives {i : Instr} {s t : State} (h : exec i s = .next t) (hr : Safety.isRead i = true) :
    ∃ v, t = s.drive v ∧ (i ≠ .rdcrc → v.toNat < 256) := by
  obtain ⟨rfl, -⟩ | ⟨d, rfl, -⟩ | ⟨-, rfl⟩ | ⟨rfl, rfl⟩ | ⟨-, rfl⟩ | ⟨-, rfl⟩ := exec_cases h
  · cases hr
  · cases hr
  · exact ⟨_, rfl, fun _ => zext16_toNat_lt _⟩
  · exact ⟨_, rfl, fun hne => absurd rfl hne⟩
  · exact ⟨_, rfl, fun _ => zext16_toNat_lt _⟩
  · exact ⟨_, rfl, fun _ => zext16_toNat_lt _⟩

/-- `INIT` and `ABS` drive nothing. -/
theorem exec_write_dout {i : Instr} {s t : State} (h : exec i s = .next t) (hr : Safety.isRead i = false) : t.dout = none := by
  obtain ⟨-, rfl⟩ | ⟨d, -, rfl⟩ | ⟨rfl, -⟩ | ⟨rfl, -⟩ | ⟨rfl, -⟩ | ⟨rfl, -⟩ := exec_cases h
  case inl => rfl
  case inr.inl => rfl
  all_goals cases hr

/-! ## The obligations -/

/-- Settles O45: reset empties the stream, an accepted word acts as its operation does, and any other edge keeps both registers. -/
theorem stepKeepsTheStreamInvariant : Obligations.StepKeepsTheStreamInvariant := by
  intro s t S h hs
  have arrived : Reflects (nextEdge s).2 S := h.congr (nextEdge_crc s) (nextEdge_sum s)
  obtain ⟨hr, rfl⟩ | ⟨ha, -, hx⟩ | ⟨hr, ha, rfl⟩ := step_cases hs
  · rw [Edge.event_of_rst hr]
    exact reflects_nil rfl rfl
  · rw [Edge.event_of_accepts ha]
    have accepting : Reflects { (nextEdge s).2 with held := none } S := arrived.congr rfl rfl
    exact accepting.exec hx
  · rw [Edge.event_of_not hr ha]
    exact arrived.congr rfl rfl

/-- Settles O55: the two states differ in `dout` alone, which no step reads. -/
theorem crcAndSumAreTheWholeState : Obligations.CrcAndSumAreTheWholeState := by
  intro s s' n hcrc hsum hheld hinput
  have differ : s' = { s with dout := s'.dout } := by rw [hcrc, hsum, hheld, hinput]
  have same : step s = step s' := by
    rw [differ]
    exact (step_with_dout s s'.dout).symm
  exact runSteps_succ_congr n same

/-- Settles O1: the fields of `State.reset` are the values of R18, and nothing is driven (R87). -/
theorem resetStateIsClear : Obligations.ResetStateIsClear := ⟨rfl, rfl, rfl⟩

/-- Settles O16, from what a read drives and what no operation touches. -/
theorem operationFrame : Obligations.OperationFrame := by
  intro i s t h
  obtain ⟨hheld, hinput⟩ := exec_keeps_port h
  refine ⟨hheld, hinput, fun hr => ?_, exec_write_dout h⟩
  obtain ⟨v, rfl, hv⟩ := exec_read_drives h hr
  exact ⟨rfl, rfl, v, rfl, hv⟩

/-- Settles O44: the reset values are the functions' starting values. -/
theorem streamInvariantAtReset : Obligations.StreamInvariantAtReset := reflects_nil rfl rfl

end Sys2Proof.Machine
end

section
/-! PROOFS. The memory family (20_memory.md): a read can be repeated (R29). -/

namespace Sys2Proof.Machine

/-- No operation reads what an earlier read drove. -/
theorem exec_drive (i : Instr) (s : State) (v : Half) : exec i (s.drive v) = exec i s := exec_with_dout i s (some v)

/-- Settles O17: a read only drives `dout`, which no operation reads. -/
theorem readsAreRepeatable : Obligations.ReadsAreRepeatable := by
  intro i s t hr h
  obtain ⟨v, rfl, -⟩ := exec_read_drives h hr
  rw [exec_drive]
  exact h

end Sys2Proof.Machine
end

section
/-! PROOFS. The encoding family (30_encoding.md): the command word and its fields (R36 to R42, R48), the port's steps (R44, R45), the
assembler (R46) and the listing (R49). -/

namespace Sys2Proof

/-! ## The two fields of a command word -/

@[simp] theorem opField_makeCommand (op : Opcode) (d : Byte) : opField (makeCommand op d) = op :=
  BitVec.extractLsb'_append_eq_left

@[simp] theorem dinField_makeCommand (op : Opcode) (d : Byte) : dinField (makeCommand op d) = d :=
  BitVec.extractLsb'_append_eq_right

theorem makeCommand_toNat (op : Opcode) (d : Byte) : (makeCommand op d).toNat = op.toNat * 256 + d.toNat := by
  rw [makeCommand, BitVec.toNat_append, ← Nat.shiftLeft_add_eq_or_of_lt d.isLt, Nat.shiftLeft_eq]

theorem opField_toNat (w : CommandWord) : (opField w).toNat = w.toNat / 256 := by
  have := w.isLt
  rw [opField, BitVec.extractLsb'_toNat, Nat.shiftRight_eq_div_pow]
  omega

theorem dinField_toNat (w : CommandWord) : (dinField w).toNat = w.toNat % 256 := by
  rw [dinField, BitVec.extractLsb'_toNat, Nat.shiftRight_zero]

/-- A command word is the concatenation of its two fields (R36). -/
theorem makeCommand_fields (w : CommandWord) : makeCommand (opField w) (dinField w) = w := by
  apply BitVec.eq_of_toNat_eq
  rw [makeCommand_toNat, opField_toNat, dinField_toNat]
  omega

theorem makeCommand_inj {op op' : Opcode} {d d' : Byte} : makeCommand op d = makeCommand op' d' ↔ op = op' ∧ d = d' := by
  refine ⟨fun h => ⟨?_, ?_⟩, fun ⟨hop, hd⟩ => by rw [hop, hd]⟩
  · simpa using congrArg opField h
  · simpa using congrArg dinField h

theorem opcode_cases (op : Opcode) :
    op = 0 ∨ op = 1 ∨ op = 2 ∨ op = 3 ∨ op = 4 ∨ op = 5 ∨ op = 6 ∨ op = 7 := by
  revert op
  decide

/-- Every command word lies in one of the eight rows of the opcode map (R37, R41). -/
theorem commandWord_cases (w : CommandWord) :
    ∃ d, w = makeCommand 0 d ∨ w = makeCommand 1 d ∨ w = makeCommand 2 d ∨ w = makeCommand 3 d ∨
      w = makeCommand 4 d ∨ w = makeCommand 5 d ∨ w = makeCommand 6 d ∨ w = makeCommand 7 d := by
  refine ⟨dinField w, ?_⟩
  rw [← makeCommand_fields w]
  simpa [makeCommand_inj] using opcode_cases (opField w)

/-! ## Decoding and encoding, row by row -/

@[simp] theorem decode_init (d : Byte) : decode (makeCommand 0#3 d) = .init := by simp [decode]
@[simp] theorem decode_abs (d : Byte) : decode (makeCommand 1#3 d) = .abs d := by simp [decode]
@[simp] theorem decode_rdsum (d : Byte) : decode (makeCommand 2#3 d) = .rdsum := by simp [decode]
@[simp] theorem decode_rdcrc (d : Byte) : decode (makeCommand 3#3 d) = .rdcrc := by simp [decode]
@[simp] theorem decode_rdcl (d : Byte) : decode (makeCommand 4#3 d) = .rdcl := by simp [decode]
@[simp] theorem decode_rdch (d : Byte) : decode (makeCommand 5#3 d) = .rdch := by simp [decode]
@[simp] theorem decode_reserved6 (d : Byte) : decode (makeCommand 6#3 d) = .reserved6 := by simp [decode]
@[simp] theorem decode_reserved7 (d : Byte) : decode (makeCommand 7#3 d) = .reserved7 := by simp [decode]

/-- Only `ABS` has an operand: in every other row the decoder ignores `din` (R39). -/
theorem decode_ignores_din {op : Opcode} (hop : op ≠ 1) (d d' : Byte) :
    decode (makeCommand op d) = decode (makeCommand op d') := by
  obtain rfl | rfl | rfl | rfl | rfl | rfl | rfl | rfl := opcode_cases op
  case inr.inl => exact absurd rfl hop
  all_goals simp

@[simp] theorem isCanonical_makeCommand (op : Opcode) (d : Byte) :
    isCanonical (makeCommand op d) = (op == 1#3 || (decide (op.toNat ≤ 5) && d == 0#8)) := by
  simp [isCanonical]

/-- Every operation has a canonical word. -/
theorem encode_of_wellFormed {i : Instr} (hi : i.wellFormed = true) : ∃ w, encode i = some w := by
  cases i
  case reserved6 | reserved7 => cases hi
  all_goals exact ⟨_, rfl⟩

/-- The encoder gives canonical words only (R40). -/
theorem isCanonical_of_encode {i : Instr} {w : CommandWord} (h : encode i = some w) : isCanonical w = true := by
  cases i <;> cases h <;> simp

/-- Decoding inverts encoding (R48). -/
theorem decode_of_encode {i : Instr} {w : CommandWord} (h : encode i = some w) : decode w = i := by
  cases i <;> cases h <;> simp

/-- Every operation has a canonical word, which decodes to it (R48). -/
theorem canonicalWord_of_wellFormed {i : Instr} (hi : i.wellFormed = true) :
    ∃ w, encode i = some w ∧ isCanonical w = true ∧ decode w = i := by
  obtain ⟨w, hw⟩ := encode_of_wellFormed hi
  exact ⟨w, hw, isCanonical_of_encode hw, decode_of_encode hw⟩

/-- Re-encoding gives the word back exactly when it is canonical (R48): in the rows without operand that is `din = 0`, in the row of
`ABS` it is always so, and in a reserved row never. -/
theorem encode_decode_eq_some_iff (w : CommandWord) : encode (decode w) = some w ↔ isCanonical w = true := by
  obtain ⟨d, rfl | rfl | rfl | rfl | rfl | rfl | rfl | rfl⟩ := commandWord_cases w <;>
    simp [encode, makeCommand_inj, eq_comm (b := d)]

/-! ## The rows in numbers -/

theorem makeCommand_abs_eq (d : Byte) : makeCommand 1 d = 0x100#11 + d.setWidth 11 := by
  apply BitVec.eq_of_toNat_eq
  have := d.isLt
  simp [makeCommand_toNat]
  omega

theorem commandWord_of_row (q r : Nat) (hr : r < 256) :
    BitVec.ofNat 11 (256 * q + r) = makeCommand (BitVec.ofNat 3 q) (BitVec.ofNat 8 r) := by
  apply BitVec.eq_of_toNat_eq
  rw [makeCommand_toNat]
  simp only [BitVec.toNat_ofNat]
  omega

/-- How many words of one row of the opcode map are canonical. -/
def canonicalInRow (q : Nat) : Nat :=
  (List.range 256).countP fun r => isCanonical (BitVec.ofNat 11 (256 * q + r))

theorem countP_zero_byte : (List.range 256).countP (fun r => BitVec.ofNat 8 r == 0#8) = 1 := by
  calc (List.range 256).countP (fun r => BitVec.ofNat 8 r == 0#8)
      = (List.range 256).count 0 := by
        refine List.countP_congr fun r hr => ?_
        have := List.mem_range.mp hr
        simp [← BitVec.toNat_inj]
        omega
    _ = 1 := List.count_eq_one_of_mem List.nodup_range (List.mem_range.mpr (by decide))

/-- All 256 words of the row of `ABS` are canonical, one word of the other five rows with a meaning, and no reserved word. -/
theorem canonicalInRow_eq (q : Nat) :
    canonicalInRow q = if BitVec.ofNat 3 q = 1#3 then 256 else if (BitVec.ofNat 3 q).toNat ≤ 5 then 1 else 0 := by
  have byFields : canonicalInRow q = (List.range 256).countP fun r =>
      BitVec.ofNat 3 q == 1#3 || (decide ((BitVec.ofNat 3 q).toNat ≤ 5) && BitVec.ofNat 8 r == 0#8) :=
    List.countP_congr fun r hr => by rw [commandWord_of_row q r (List.mem_range.mp hr), isCanonical_makeCommand]
  generalize BitVec.ofNat 3 q = op at byFields ⊢
  rw [byFields]
  by_cases abs : op = 1#3
  · simp [abs]
  · have notAbs : (op == 1#3) = false := beq_eq_false_iff_ne.mpr abs
    by_cases meaning : op.toNat ≤ 5
    · simp [notAbs, abs, meaning, countP_zero_byte]
    · simp [notAbs, abs, meaning]

/-- The words below 256 times `k` are the words of the first `k` rows. -/
theorem canonical_rows (k : Nat) :
    (List.range (256 * k)).countP (fun n => isCanonical (BitVec.ofNat 11 n)) = ((List.range k).map canonicalInRow).sum := by
  induction k with
  | zero => rfl
  | succ k ih =>
    rw [Nat.mul_succ, List.range_add, List.countP_append, ih, List.countP_map, List.range_succ (n := k), List.map_append,
      List.sum_append]
    simp [canonicalInRow, Function.comp_def]

end Sys2Proof

namespace Sys2Proof.Machine

/-! ## What the decoded words do -/

theorem exec_refused_iff (i : Instr) (s : State) : (∃ r, exec i s = .refused r) ↔ i.wellFormed = false := by
  cases i <;> simp [Instr.wellFormed]

theorem wellFormed_decode_eq_false_iff (w : CommandWord) : (decode w).wellFormed = false ↔ 0x600 ≤ w.toNat := by
  obtain ⟨d, rfl | rfl | rfl | rfl | rfl | rfl | rfl | rfl⟩ := commandWord_cases w <;>
    simp [Instr.wellFormed, makeCommand_toNat] <;> omega

/-! ## The assembler's programs -/

/-- The answer of a parser, where it is a program, is made of the six operations only. -/
def AnswersOperations (r : Except AsmError (List Instr)) : Prop :=
  ∀ prog, r = .ok prog → ∀ i ∈ prog, i.wellFormed = true

theorem answersOperations_error (e : AsmError) : AnswersOperations (.error e) := by
  intro prog h
  cases h

theorem answersOperations_ok {prog : List Instr} (hp : ∀ i ∈ prog, i.wellFormed = true) : AnswersOperations (.ok prog) := by
  intro prog' h
  cases h
  exact hp

theorem answersOperations_ite {p : Prop} [Decidable p] {r r' : Except AsmError (List Instr)} (h : AnswersOperations r)
    (h' : AnswersOperations r') : AnswersOperations (if p then r else r') := by
  split
  · exact h
  · exact h'

theorem answersOperations_withoutOperand (arg : List Char) {prog : List Instr} (hp : ∀ i ∈ prog, i.wellFormed = true) :
    AnswersOperations (withoutOperand arg prog) := by
  unfold withoutOperand
  split
  · exact answersOperations_ok hp
  · exact answersOperations_error _

theorem answersOperations_withByte (arg : List Char) {prog : Byte → List Instr}
    (hp : ∀ d, ∀ i ∈ prog d, i.wellFormed = true) : AnswersOperations (withByte arg prog) := by
  unfold withByte
  split
  · exact answersOperations_ok (hp _)
  · exact answersOperations_error _

theorem answersOperations_withData (arg : List Char) {prog : List Byte → List Instr}
    (hp : ∀ data, ∀ i ∈ prog data, i.wellFormed = true) : AnswersOperations (withData arg prog) := by
  unfold withData
  split
  · exact answersOperations_ok (hp _)
  · exact answersOperations_error _

theorem wellFormed_of_mem_absN (data : List Byte) : ∀ i ∈ absN data, i.wellFormed = true := by
  intro i hi
  obtain ⟨d, -, rfl⟩ := List.mem_map.mp hi
  rfl

/-- The shape that `SUM8`, `CRC16` and `CRC16LE` share (R47): `INIT`, the bytes, and reads. -/
theorem wellFormed_of_mem_sequence {reads : List Instr} (hreads : ∀ i ∈ reads, i.wellFormed = true) (data : List Byte) :
    ∀ i ∈ Instr.init :: (absN data ++ reads), i.wellFormed = true :=
  List.forall_mem_cons.mpr ⟨rfl, List.forall_mem_append.mpr ⟨wellFormed_of_mem_absN data, hreads⟩⟩

theorem answersOperations_parseOperation (word arg : List Char) : AnswersOperations (parseOperation word arg) :=
  answersOperations_ite (answersOperations_withoutOperand _ (by decide)) <|
  answersOperations_ite (answersOperations_withByte _ (by simp [Instr.wellFormed])) <|
  answersOperations_ite (answersOperations_withoutOperand _ (by decide)) <|
  answersOperations_ite (answersOperations_withoutOperand _ (by decide)) <|
  answersOperations_ite (answersOperations_withoutOperand _ (by decide)) <|
  answersOperations_ite (answersOperations_withoutOperand _ (by decide)) <|
  answersOperations_ite (answersOperations_withData _ wellFormed_of_mem_absN) <|
  answersOperations_ite (answersOperations_withoutOperand _ (by decide)) <|
  answersOperations_ite (answersOperations_withData _ (wellFormed_of_mem_sequence (by decide))) <|
  answersOperations_ite (answersOperations_withData _ (wellFormed_of_mem_sequence (by decide))) <|
  answersOperations_ite (answersOperations_withData _ (wellFormed_of_mem_sequence (by decide))) <|
  answersOperations_error _

theorem answersOperations_parseLine (line : List Char) : AnswersOperations (parseLine line) := by
  simp only [parseLine]
  split
  · exact answersOperations_ok (by simp)
  · exact answersOperations_parseOperation _ _

theorem answersOperations_parseLines (ls : List (List Char)) : AnswersOperations (parseLines ls) := by
  induction ls with
  | nil => exact answersOperations_ok (by simp)
  | cons l ls ih =>
    unfold parseLines
    split
    · exact answersOperations_error _
    · exact answersOperations_error _
    · next p ps hp hps =>
      refine answersOperations_ok fun i hi => ?_
      obtain hi | hi := List.mem_append.mp hi
      · exact answersOperations_parseLine l p hp i hi
      · exact ih ps hps i hi

/-- The canonical words of a program of the six operations decode to that program. -/
theorem map_decode_commandWords {prog : List Instr} (hp : ∀ i ∈ prog, i.wellFormed = true) :
    (commandWords prog).map decode = prog := by
  induction prog with
  | nil => rfl
  | cons i prog ih =>
    obtain ⟨hi, hrest⟩ := List.forall_mem_cons.mp hp
    obtain ⟨w, hw⟩ := encode_of_wellFormed hi
    rw [commandWords, List.filterMap_cons_some hw, List.map_cons, decode_of_encode hw]
    exact congrArg (i :: ·) (ih hrest)

theorem isCanonical_of_mem_commandWords {prog : List Instr} {w : CommandWord} (hw : w ∈ commandWords prog) :
    isCanonical w = true := by
  obtain ⟨i, -, hi⟩ := List.mem_filterMap.mp hw
  exact isCanonical_of_encode hi

theorem assemble_eq_ok {text : List Char} {ws : List CommandWord} (h : assemble text = .ok ws) :
    ∃ prog, parseProgram text = .ok prog ∧ ws = commandWords prog := by
  unfold assemble at h
  split at h
  · next prog hp =>
    cases h
    exact ⟨prog, hp, rfl⟩
  · cases h

/-! ## Decimal literals -/

/-- Digits alone are neither a character literal nor a hexadecimal number. -/
theorem byteLiteral_of_digits {cs : List Char} (hcs : ∀ c ∈ cs, c.isDigit = true) : byteLiteral cs = byteOfDigits 10 cs := by
  unfold byteLiteral
  split
  · exact absurd (hcs '\'' (by simp)) (by decide)
  · exact absurd (hcs 'x' (by simp)) (by decide)
  · rfl

theorem digitValue_of_isDigit {c : Char} (hc : c.isDigit = true) : digitValue 10 c = some (c.toNat - '0'.toNat) := by
  obtain ⟨hlow, hhigh⟩ : 48 ≤ c.toNat ∧ c.toNat ≤ 57 := by
    simpa [Char.isDigit, UInt32.le_iff_toNat_le] using hc
  have zero : '0'.toNat = 48 := rfl
  simp only [digitValue, hlow, hhigh, and_self, if_true, zero]
  exact if_pos (by omega)

/-- On digits the assembler's reading is the library's. -/
theorem digitsValue_of_digits {cs : List Char} (hcs : ∀ c ∈ cs, c.isDigit = true) (acc : Nat) :
    digitsValue 10 acc cs = some (Nat.ofDigitChars 10 cs acc) := by
  induction cs generalizing acc with
  | nil => rfl
  | cons c cs ih =>
    obtain ⟨hc, hrest⟩ := List.forall_mem_cons.mp hcs
    simp only [digitsValue, digitValue_of_isDigit hc]
    rw [ih hrest, Nat.ofDigitChars_cons, Nat.mul_comm]

theorem byteOfDigits_of_value {base n : Nat} {cs : List Char} (hne : cs ≠ []) (hv : digitsValue base 0 cs = some n) :
    byteOfDigits base cs = if n < 256 then .ok (BitVec.ofNat 8 n) else .error .outOfRange := by
  cases cs with
  | nil => exact absurd rfl hne
  | cons c cs => simp only [byteOfDigits, hv]

/-! ## Listings -/

theorem hexDigit_inj : ∀ a < 16, ∀ b < 16, hexDigit a = hexDigit b → a = b := by decide

/-! ## The command port -/

theorem commandOfContainer_eq {nbits : Nat} (hn : 11 ≤ nbits) (w : Nat) : commandOfContainer nbits w = BitVec.ofNat 11 w := by
  apply BitVec.eq_of_toNat_eq
  simp only [commandOfContainer, BitVec.toNat_ofNat]
  exact Nat.mod_mod_of_dvd w (Nat.pow_dvd_pow 2 hn)

theorem step_withFetchWord (s : State) (nbits w : Nat) :
    step (s.withFetchWord nbits w) = exec (decode (commandOfContainer nbits w)) { s with held := none } := by
  rw [step_cons (rfl : (s.withFetchWord nbits w).input = Edge.accept (commandOfContainer nbits w) :: s.input)]
  exact clockEdge_accept rfl rfl

/-! ## Runs against the spec's own step -/

theorem eventsOf_cons_some {e : Edge} {ev : Event} (h : e.event = some ev) (es : List Edge) :
    eventsOf (e :: es) = ev :: eventsOf es :=
  List.filterMap_cons_some h

theorem eventsOf_cons_none {e : Edge} (h : e.event = none) (es : List Edge) : eventsOf (e :: es) = eventsOf es :=
  List.filterMap_cons_none h

theorem specRun_command {r r' u : Registers} {w : CommandWord} {out : Option Half} {es : List Event} {outs : List Half}
    (hw : specStep r w = some (r', out)) (hes : specRun es r' = some (u, outs)) :
    specRun (.command w :: es) r = some (u, out.toList ++ outs) := by
  simp only [specRun, hw, hes]

/-- What the host's table says of the next edge, by the three kinds of edge of `clockEdge_cases`. -/
theorem hostKeepsRules_edge_cases {held : Option CommandWord} {e : Edge} {es : List Edge}
    (h : Safety.hostKeepsRules held (e :: es) = true) :
    (e.rst = true ∧ Safety.hostKeepsRules none es = true) ∨
    (e.accepts = true ∧ breaksHandshake held e = false ∧ (decode e.cmd).wellFormed = true ∧
      Safety.hostKeepsRules none es = true) ∨
    (e.rst = false ∧ e.accepts = false ∧ breaksHandshake held e = false ∧
      Safety.hostKeepsRules (if e.cmdValid then some e.cmd else none) es = true) := by
  obtain ⟨hr, hk⟩ | ⟨hr, hv, hb, hk⟩ | ⟨hr, hv, hb, hw, hk⟩ := hostKeepsRules_cons h
  · exact .inl ⟨hr, hk⟩
  · exact .inr (.inr ⟨hr, by simp [Edge.accepts, hv], hb, by simpa [hv] using hk⟩)
  · cases hready : e.cmdReady with
    | true => exact .inr (.inl ⟨by simp [Edge.accepts, hr, hv, hready], hb, hw, by simpa [hready] using hk⟩)
    | false => exact .inr (.inr ⟨hr, by simp [Edge.accepts, hready], hb, by simpa [hv, hready] using hk⟩)

/-- One step under a host that keeps its table: it answers, the table is kept, and the spec's run over the remaining events extends
to the spec's run over all of them, with the step's output in front. -/
theorem step_extends_specRun {s : State} {e : Edge} {rest : List Edge} (hi : s.input = e :: rest)
    (hk : Safety.hostKeepsRules s.held (e :: rest) = true) :
    ∃ t, step s = .next t ∧ t.input = rest ∧ Safety.hostKeepsRules t.held rest = true ∧
      ∀ r outs, specRun (eventsOf rest) t.registers = some (r, outs) →
        specRun (eventsOf (e :: rest)) s.registers = some (r, t.dout.toList ++ outs) := by
  rw [step_cons hi]
  obtain ⟨hr, hk⟩ | ⟨ha, hb, hw, hk⟩ | ⟨hr, ha, hb, hk⟩ := hostKeepsRules_edge_cases hk
  · refine ⟨_, clockEdge_reset _ hr, rfl, hk, fun r outs h => ?_⟩
    rw [eventsOf_cons_some (Edge.event_of_rst hr)]
    exact h
  · obtain ⟨t, hx, hspec, hheld, hinput⟩ := exec_decode_wellFormed { s with held := none, input := rest } hw
    refine ⟨t, (clockEdge_accept (s := { s with input := rest }) hb ha).trans hx, hinput, hheld ▸ hk, fun r outs h => ?_⟩
    rw [eventsOf_cons_some (Edge.event_of_accepts ha)]
    exact specRun_command hspec h
  · refine ⟨_, clockEdge_noAccept (s := { s with input := rest }) hr hb ha, rfl, hk, fun r outs h => ?_⟩
    rw [eventsOf_cons_none (Edge.event_of_not hr ha)]
    exact h

/-! ## The obligations -/

/-- Settles O19: the words fall into the eight rows of the opcode map, on each of which `decode` and `encode` are known. -/
theorem decodeAndEncodeAgree : Obligations.DecodeAndEncodeAgree :=
  ⟨fun d => ⟨decode_init d, decode_abs d, decode_rdsum d, decode_rdcrc d, decode_rdcl d, decode_rdch d, decode_reserved6 d,
      decode_reserved7 d⟩,
    fun w => (makeCommand_fields w).symm, fun _ => canonicalWord_of_wellFormed, encode_decode_eq_some_iff,
    fun _ => canonicalWord_of_wellFormed⟩

/-- Settles O22: a parsed program holds the six operations only, so that the encoder drops none of it. -/
theorem assemblerEmitsCanonicalWords : Obligations.AssemblerEmitsCanonicalWords := by
  intro text ws h
  obtain ⟨prog, hprog, rfl⟩ := assemble_eq_ok h
  refine ⟨fun w => isCanonical_of_mem_commandWords, ?_⟩
  rw [map_decode_commandWords (answersOperations_parseLines _ prog hprog)]
  exact hprog

/-- Settles O23: the digits of `n` are read as a decimal number, whose value is `n`. -/
theorem decimalOperandIsNeverTruncated : Obligations.DecimalOperandIsNeverTruncated := by
  intro n
  have digits : ∀ c ∈ Nat.toDigits 10 n, c.isDigit = true := fun c => Nat.isDigit_of_mem_toDigits (by decide) (by decide)
  rw [byteLiteral_of_digits digits]
  refine byteOfDigits_of_value Nat.toDigits_ne_nil ?_
  rw [digitsValue_of_digits digits, Nat.ofDigitChars_toDigits (by decide) (by decide)]

/-- Settles O24: the three digits are the word's value in base 16. -/
theorem listingDeterminesTheWord : Obligations.ListingDeterminesTheWord := by
  intro w w' h
  have hw := w.isLt
  have hw' := w'.isLt
  simp only [listing, List.cons.injEq, and_true, true_and] at h
  obtain ⟨high, middle, low⟩ := h
  have high := hexDigit_inj _ (by omega) _ (by omega) high
  have middle := hexDigit_inj _ (by omega) _ (by omega) middle
  have low := hexDigit_inj _ (by omega) _ (by omega) low
  apply BitVec.eq_of_toNat_eq
  omega

/-- Settles O51, by induction on the listed edges. -/
theorem runsFollowTheSpecStep : Obligations.RunsFollowTheSpecStep := by
  intro s hk
  generalize hi : s.input = es at hk ⊢
  induction es generalizing s with
  | nil =>
    refine ⟨s.registers, [], rfl, s, ?_, rfl⟩
    rw [hi]
    rfl
  | cons e rest ih =>
    obtain ⟨t, hstep, hinput, hk', hspec⟩ := step_extends_specRun hi hk
    obtain ⟨r, outs, hrun, u, hu, hreg⟩ := ih t hinput hk'
    refine ⟨r, t.dout.toList ++ outs, hspec r outs hrun, u, ?_, hreg⟩
    rw [hi]
    rw [hinput] at hu
    exact runSteps_succ hstep hu

/-- Settles O3, by the rule for an accepting edge. -/
theorem stepRunsTheAcceptedCommand : Obligations.StepRunsTheAcceptedCommand := by
  intro s e rest hi hb hr hv hready
  rw [step_cons hi]
  exact clockEdge_accept hb (by simp [Edge.accepts, hr, hv, hready])

/-- Settles O4: the container's low 11 bits are the word, and the edge put in front accepts it. -/
theorem placedWordRunsNext : Obligations.PlacedWordRunsNext := by
  intro s nbits w hn
  rw [← commandOfContainer_eq hn w]
  exact ⟨step_withFetchWord s nbits w, rfl⟩

/-- Settles O5, by the rule for an edge on which nothing is accepted. -/
theorem unacceptedEdgeChangesNothing : Obligations.UnacceptedEdgeChangesNothing := by
  refine ⟨fun s e rest hi hb hr hport => ?_, fun s hi => ?_⟩
  · have ha : e.accepts = false := by
      obtain hv | hready := hport <;> simp [Edge.accepts, *]
    rw [step_cons hi, clockEdge_noAccept (s := { s with input := rest }) hr hb ha]
    rfl
  · rw [step_nil hi]
    obtain ⟨crc, sum, dout, held, input⟩ := s
    cases hi
    rfl

/-- Settles O14: `exec` refuses what is not well formed, which is what the reserved words decode to. -/
theorem reservedWordsAreRefused : Obligations.ReservedWordsAreRefused :=
  ⟨exec_reserved6, exec_reserved7, fun w s => (exec_refused_iff _ s).trans (wellFormed_decode_eq_false_iff w)⟩

/-- Settles O18, by evaluation. -/
theorem sampleWordsDecode : Obligations.SampleWordsDecode := by
  unfold Obligations.SampleWordsDecode
  decide

/-- Settles O20: the two words decode to the same operation. -/
theorem unusedOperandIsIgnored : Obligations.UnusedOperandIsIgnored := by
  intro op d d' s hop _
  rw [decode_ignores_din hop d d']

/-- Settles O21, the count row by row: 256 words of `ABS` and one of each other operation. -/
theorem canonicalWordsAre261 : Obligations.CanonicalWordsAre261 := by
  refine ⟨rfl, fun d => congrArg some (makeCommand_abs_eq d), rfl, rfl, rfl, rfl, ?_⟩
  rw [← List.countP_eq_length_filter, canonical_rows 8, List.map_congr_left fun q _ => canonicalInRow_eq q]
  rfl

end Sys2Proof.Machine
end

section
/-! PROOFS. The `INIT` family (40_init.md): what `INIT` does to the state, from every state (R50). -/

namespace Sys2Proof.Machine

/-- Settles O7: `INIT` clears both registers and releases `dout`, and the starting values of both functions are 0. -/
theorem initClearsBothRegisters : Obligations.InitClearsBothRegisters := by
  intro s
  rw [exec_init]
  rfl

end Sys2Proof.Machine
end

section
/-! PROOFS. The `ABS` family (41_absorb.md): the sum step (R51), the xor-in (R52), the round (R53) and the byte step (R54) against
the pseudocode over integers, the forms of R56, the corner cases of R55, and that neither register influences the other. -/

namespace Sys2Proof.Machine

/-! ## The integers of the pseudocode -/

theorem sumStep_toNat (s d : Byte) : (sumStep s d).toNat = sumStepInt s.toNat d.toNat := by
  rw [sumStep_eq_add, BitVec.toNat_add]
  rfl

theorem crcXorin_toNat (a : Half) (d : Byte) : (crcXorin a d).toNat = crcXorinInt a.toNat d.toNat := by
  have hd := d.isLt
  have shifted : (d.setWidth 16 <<< 8).toNat = d.toNat * 2 ^ 8 := by
    rw [BitVec.toNat_shiftLeft, BitVec.toNat_setWidth, Nat.shiftLeft_eq]
    omega
  rw [crcXorin, BitVec.toNat_xor, shifted, crcXorinInt]

/-- The 17 bits of a round's intermediate hold the doubled accumulator whole. -/
theorem shifted_toNat (a : Half) : (a.setWidth 17 <<< 1).toNat = a.toNat * 2 := by
  have ha := a.isLt
  rw [BitVec.toNat_shiftLeft, BitVec.toNat_setWidth, Nat.shiftLeft_eq]
  omega

/-- The test of bit 16 after the shift is a test of bit 15 before it. -/
theorem and_bit16_ne_zero_iff (a : Half) : (a.toNat * 2) &&& 0x10000 ≠ 0 ↔ a.getLsbD 15 = true := by
  have moved : (a.toNat * 2).testBit 16 = a.getLsbD 15 := by
    rw [← a.testBit_toNat]
    exact Nat.testBit_mul_two_pow a.toNat 16 1
  rw [show 0x10000 = 2 ^ 16 from rfl, Nat.and_two_pow, moved]
  cases a.getLsbD 15 <;> simp

theorem crcRound_toNat (a : Half) : (crcRound a).toNat = crcRoundInt a.toNat := by
  simp only [crcRound, crcRoundInt, bit16_shifted, and_bit16_ne_zero_iff]
  cases h15 : a.getLsbD 15 with
  | true =>
    rw [if_pos rfl, if_pos rfl, BitVec.toNat_setWidth, BitVec.toNat_xor, shifted_toNat]
    exact (Nat.and_two_pow_sub_one_eq_mod _ 16).symm
  | false =>
    have fits : a.toNat < 2 ^ 15 := by
      have msb : a.msb = false := by rw [BitVec.msb_eq_getLsbD_last]; exact h15
      exact BitVec.toNat_lt_of_msb_false msb
    rw [if_neg (by simp), if_neg (by simp), BitVec.toNat_setWidth, shifted_toNat]
    omega

theorem polynomial_getLsbD (i : Nat) : Config.polynomial.getLsbD i = true ↔ i = 12 ∨ i = 5 ∨ i = 0 := by
  by_cases hi : i < 16
  · revert i
    decide
  · rw [BitVec.getLsbD_of_ge _ _ (by omega)]
    simp
    omega

theorem crcRound_getLsbD_zero (a : Half) : (crcRound a).getLsbD 0 = a.getLsbD 15 := by
  rw [crcRound_getLsbD a (by decide), (polynomial_getLsbD 0).mpr (by decide)]
  simp

/-! ## Several rounds -/

theorem crcRounds_succ (n : Nat) (a : Half) : crcRounds (n + 1) a = crcRound (crcRounds n a) := by
  induction n generalizing a with
  | zero => rfl
  | succ n ih => exact ih (crcRound a)

theorem crcRounds_toNat (n : Nat) (a : Half) : (crcRounds n a).toNat = Nat.repeat crcRoundInt n a.toNat := by
  induction n with
  | zero => rfl
  | succ n ih => rw [crcRounds_succ, crcRound_toNat, ih, Nat.repeat]

theorem crcByte_toNat (a : Half) (d : Byte) : (crcByte a d).toNat = crcByteInt a.toNat d.toNat := by
  rw [crcByte, crcRounds_toNat, crcXorin_toNat, crcByteInt]
  rfl

/-- A round is linear over exclusive OR. -/
theorem crcRound_xor (a b : Half) : crcRound (a ^^^ b) = crcRound a ^^^ crcRound b := by
  apply BitVec.eq_of_getLsbD_eq
  intro i hi
  simp only [BitVec.getLsbD_xor, crcRound_getLsbD _ hi, Bool.and_xor_distrib_left, Bool.and_xor_distrib_right,
    Bool.xor_assoc, Bool.xor_left_comm]

theorem crcRounds_xor (n : Nat) (a b : Half) : crcRounds n (a ^^^ b) = crcRounds n a ^^^ crcRounds n b := by
  induction n with
  | zero => rfl
  | succ n ih => rw [crcRounds_succ, ih, crcRound_xor, crcRounds_succ, crcRounds_succ]

/-! ## The equivalent forms of R56 -/

/-- R56 (a): the bit that leaves at the top is the old bit 15, so it may be tested before the shift. -/
theorem crcRoundTestFirst_eq (a : Half) : crcRoundTestFirst a = crcRound a := by
  apply BitVec.eq_of_getLsbD_eq
  intro i hi
  rw [crcRound_getLsbD a hi, crcRoundTestFirst, BitVec.getLsbD_xor, BitVec.getLsbD_shiftLeft]
  cases a.getLsbD 15 <;> cases i <;> simp [hi]

/-- The low 16 bits of form (b) are the round: the two polynomials differ in bit 16 alone. -/
theorem crcRoundNoMask_setWidth (a : Half) : (crcRoundNoMask a).setWidth 16 = crcRound a := by
  have low : Config.polynomial17.setWidth 16 = (Config.polynomial.setWidth 17).setWidth 16 := rfl
  simp only [crcRoundNoMask, crcRound]
  split
  · rw [BitVec.setWidth_xor, BitVec.setWidth_xor, low]
  · rfl

/-- Form (b) needs no mask: where bit 16 is set, the polynomial's own bit 16 clears it. -/
theorem crcRoundNoMask_getLsbD_16 (a : Half) : (crcRoundNoMask a).getLsbD 16 = false := by
  have top : (a.setWidth 17 <<< 1).getLsbD 16 = a.getLsbD 15 := by simp
  simp only [crcRoundNoMask, bit16_shifted]
  cases h15 : a.getLsbD 15 with
  | true => rw [if_pos rfl, BitVec.getLsbD_xor, top, h15]; rfl
  | false => rw [if_neg (by simp), top, h15]

/-- R56 (b). -/
theorem crcRoundNoMask_eq (a : Half) : crcRoundNoMask a = (crcRound a).setWidth 17 := by
  rw [← crcRoundNoMask_setWidth]
  apply BitVec.eq_of_getLsbD_eq
  intro i hi
  rw [BitVec.getLsbD_setWidth, BitVec.getLsbD_setWidth]
  by_cases h : i = 16
  · rw [h, crcRoundNoMask_getLsbD_16]; rfl
  · simp [hi, show i < 16 by omega]

/-- While only zeros leave at the top, `n` rounds shift by `n`. -/
theorem crcRounds_of_high_zeros {n : Nat} {a : Half} (h : ∀ i, 16 - n ≤ i → a.getLsbD i = false) :
    crcRounds n a = a <<< n := by
  induction n generalizing a with
  | zero => simp [crcRounds]
  | succ n ih =>
    have round : crcRound a = a <<< 1 := by
      rw [← crcRoundTestFirst_eq, crcRoundTestFirst, h 15 (by omega)]
      simp
    have high : ∀ i, 16 - n ≤ i → (a <<< 1).getLsbD i = false := by
      intro i hi
      rw [BitVec.getLsbD_shiftLeft, h (i - 1) (by omega), Bool.and_false]
    rw [crcRounds, round, ih high, ← BitVec.shiftLeft_add, Nat.add_comm]

/-- The low byte alone: 8 rounds move it up. -/
theorem crcRounds_low_byte (a : Half) : crcRounds Config.roundsPerByte (zext16 (lane0 a)) = a <<< 8 := by
  have high : ∀ i, 8 ≤ i → (zext16 (lane0 a)).getLsbD i = false := by
    intro i hi
    rw [zext16, BitVec.getLsbD_setWidth, BitVec.getLsbD_of_ge _ _ hi, Bool.and_false]
  rw [show Config.roundsPerByte = 8 from rfl, crcRounds_of_high_zeros high]
  apply BitVec.eq_of_getLsbD_eq
  intro i hi
  simp only [BitVec.getLsbD_shiftLeft, zext16, lane0, BitVec.getLsbD_setWidth, BitVec.getLsbD_extractLsb', Nat.zero_add]
  simp [show i - 8 < 8 by omega, show i - 8 < 16 by omega]

/-- The xor-in splits into the low byte, which it leaves, and the table's index on the high byte. -/
theorem crcXorin_eq_xor (a : Half) (d : Byte) :
    crcXorin a d = zext16 (lane0 a) ^^^ crcXorin 0x0000#16 (lane1 a ^^^ d) := by
  apply BitVec.eq_of_getLsbD_eq
  intro i hi
  rw [BitVec.getLsbD_xor, crcXorin_getLsbD _ _ hi, crcXorin_getLsbD _ _ hi, zext16, lane0, lane1, BitVec.getLsbD_setWidth,
    BitVec.getLsbD_xor, BitVec.getLsbD_extractLsb', BitVec.getLsbD_extractLsb']
  by_cases h : 8 ≤ i
  · simp [h, Nat.not_lt.mpr h, show i - 8 < 8 by omega, show 8 + (i - 8) = i by omega]
  · simp [h, hi, Nat.lt_of_not_le h]

/-- R56 (c). -/
theorem crcByteTable_eq (a : Half) (d : Byte) : crcByteTable a d = crcByte a d := by
  rw [crcByte, crcXorin_eq_xor, crcRounds_xor, crcRounds_low_byte, crcByteTable, crcTable, crcByte]

/-! ## The corner cases of R55 -/

theorem crcTable_zero : crcTable 0x00#8 = 0x0000#16 := by decide

theorem lane0_xor (v w : Half) : lane0 (v ^^^ w) = lane0 v ^^^ lane0 w := BitVec.extractLsb'_xor

theorem lane1_xor (v w : Half) : lane1 (v ^^^ w) = lane1 v ^^^ lane1 w := BitVec.extractLsb'_xor

theorem lane0_shiftLeft_8 (v : Half) : lane0 (v <<< 8) = 0#8 := by
  apply BitVec.eq_of_getLsbD_eq
  intro i hi
  simp [lane0, hi]

theorem lane1_shiftLeft_8 (v : Half) : lane1 (v <<< 8) = lane0 v := by
  apply BitVec.eq_of_getLsbD_eq
  intro i hi
  rw [lane0, lane1, BitVec.getLsbD_extractLsb', BitVec.getLsbD_extractLsb', BitVec.getLsbD_shiftLeft]
  simp [hi, show 8 + i < 16 by omega]

/-- The two lanes of a value that a zero byte leaves unchanged, by the table: the low byte is the entry's low byte, and the high byte
is the entry's high byte with the low byte moved up into it. -/
theorem lanes_of_fixed {a : Half} (h : crcByte a 0x00#8 = a) :
    lane0 a = lane0 (crcTable (lane1 a)) ∧ lane1 a = lane0 a ^^^ lane1 (crcTable (lane1 a)) := by
  rw [← crcByteTable_eq, crcByteTable, BitVec.xor_zero] at h
  constructor
  · have low := congrArg lane0 h
    rw [lane0_xor, lane0_shiftLeft_8, BitVec.zero_xor] at low
    exact low.symm
  · have high := congrArg lane1 h
    rw [lane1_xor, lane1_shiftLeft_8] at high
    exact high.symm

/-- The two table entries whose bytes XOR to their own index. -/
theorem crcTable_lanes_eq_index : ∀ i : Byte, i = lane0 (crcTable i) ^^^ lane1 (crcTable i) → i = 0x00#8 ∨ i = 0xF0#8 := by
  decide +kernel

/-! ## Each register after a step -/

/-- An accumulator after one instruction, from its own value alone: `INIT` starts it again and `ABS` absorbs its byte (R50, R55). -/
def accumulatorAfter {α : Type} (start : α) (absorb : α → Byte → α) (x : α) : Instr → α
  | .init => start
  | .abs d => absorb x d
  | _ => x

/-- An accumulator after one event: a reset starts it again too (R87). -/
def accumulatorAfterEvent {α : Type} (start : α) (absorb : α → Byte → α) (x : α) : Option Event → α
  | none => x
  | some .reset => start
  | some (.command w) => accumulatorAfter start absorb x (decode w)

/-- Each register after an operation that answers. -/
theorem exec_registers {i : Instr} {s t : State} (h : exec i s = .next t) :
    t.crc = accumulatorAfter Config.crcInit crcByte s.crc i ∧ t.sum = accumulatorAfter Config.sumInit sumStep s.sum i := by
  obtain ⟨rfl, rfl⟩ | ⟨d, rfl, rfl⟩ | ⟨rfl, rfl⟩ | ⟨rfl, rfl⟩ | ⟨rfl, rfl⟩ | ⟨rfl, rfl⟩ := exec_cases h <;> exact ⟨rfl, rfl⟩

/-- Each register after a step that answers. -/
theorem step_registers {s t : State} (h : step s = .next t) :
    t.crc = accumulatorAfterEvent Config.crcInit crcByte s.crc (nextEdge s).1.event ∧
    t.sum = accumulatorAfterEvent Config.sumInit sumStep s.sum (nextEdge s).1.event := by
  rw [← nextEdge_crc s, ← nextEdge_sum s]
  obtain ⟨hr, rfl⟩ | ⟨ha, -, hx⟩ | ⟨hr, ha, rfl⟩ := step_cases h
  · rw [Edge.event_of_rst hr]
    exact ⟨rfl, rfl⟩
  · rw [Edge.event_of_accepts ha]
    exact exec_registers (s := { (nextEdge s).2 with held := none }) hx
  · rw [Edge.event_of_not hr ha]
    exact ⟨rfl, rfl⟩

/-- The edge that arrives next depends on the list alone. -/
theorem nextEdge_fst_congr {s s' : State} (h : s.input = s'.input) : (nextEdge s).1 = (nextEdge s').1 := by
  unfold nextEdge
  rw [← h]
  split <;> rfl

/-! ## The obligations -/

/-- Settles O26: the integer value, and the bits of each half. -/
theorem xorinChangesTheHighByteOnly : Obligations.XorinChangesTheHighByteOnly := by
  intro a d
  refine ⟨crcXorin_toNat a d, ?_, ?_⟩
  · apply BitVec.eq_of_getLsbD_eq
    intro i hi
    simp [hi, crcXorin_getLsbD a d (show 8 + i < 16 by omega)]
  · apply BitVec.eq_of_getLsbD_eq
    intro i hi
    simp [hi, Nat.not_le.mpr hi, crcXorin_getLsbD a d (show i < 16 by omega)]

/-- Settles O27: bit 16 of the doubled accumulator is its bit 15, and both branches agree with the integers. -/
theorem roundFollowsTheIntegerPseudocode : Obligations.RoundFollowsTheIntegerPseudocode :=
  ⟨fun a => ⟨crcRound_toNat a, and_bit16_ne_zero_iff a, crcRound_getLsbD_zero a⟩, polynomial_getLsbD⟩

/-- Settles O28: the rounds of the byte step are the repetition of the integer round. -/
theorem byteStepIsXorinAndEightRounds : Obligations.ByteStepIsXorinAndEightRounds :=
  fun a d => ⟨rfl, crcByte_toNat a d⟩

/-- Settles O29: (a) and (b) bit by bit, (c) because a round is linear and 8 rounds only move the low byte up. -/
theorem equivalentFormsAgree : Obligations.EquivalentFormsAgree :=
  ⟨crcRoundTestFirst_eq, crcRoundNoMask_eq, crcByteTable_eq⟩

/-- Settles O31: by the table form the index is 0, and so is the table's entry. -/
theorem highByteMovesTheLowByteUp : Obligations.HighByteMovesTheLowByteUp := by
  refine ⟨fun a => ?_, crcTable_zero⟩
  rw [← crcByteTable_eq, crcByteTable, BitVec.xor_self, crcTable_zero, BitVec.xor_zero]

/-- Settles O32: the table entry of a fixed value's high byte determines the value, and only two entries fit their index. -/
theorem zeroByteFixesTwoValues : Obligations.ZeroByteFixesTwoValues := by
  intro a
  constructor
  · intro h
    obtain ⟨low, high⟩ := lanes_of_fixed h
    have index := crcTable_lanes_eq_index (lane1 a) (low ▸ high)
    rw [← lanes_append a, low]
    obtain hi | hi := index <;> rw [hi] <;> decide
  · rintro (rfl | rfl) <;> decide

/-- Refutes O33: at `CRC = 0xF01F` a zero byte changes nothing (log 16). -/
theorem not_zeroByteAlwaysChangesNonzeroCrc : ¬ Obligations.ZeroByteAlwaysChangesNonzeroCrc := by
  intro h
  obtain ⟨t, ht, -, changed⟩ := h { State.reset with crc := 0xF01F#16 } (by decide)
  cases ht
  exact changed ((zeroByteFixesTwoValues 0xF01F#16).mpr (.inr rfl))

/-- Settles O56: each register's next value is a function of its own value and of the edge's event. -/
theorem registersAreIndependent : Obligations.RegistersAreIndependent := by
  intro s s' t t' _ hinput h h'
  obtain ⟨hcrc, hsum⟩ := step_registers h
  obtain ⟨hcrc', hsum'⟩ := step_registers h'
  rw [hcrc, hsum, hcrc', hsum', nextEdge_fst_congr hinput]
  exact ⟨fun same => by rw [same], fun same => by rw [same]⟩

/-- Settles O8: the operation's two updates, field by field. -/
theorem absAbsorbsIntoBothRegisters : Obligations.AbsAbsorbsIntoBothRegisters := by
  intro d s
  rw [exec_abs]
  rfl

/-- Settles O25: a byte sum is below 512, so that the discarded carry counts 256 once or not at all. -/
theorem sumStepAddsModulo256 : Obligations.SumStepAddsModulo256 := by
  intro s d
  have hs := s.isLt
  have hd := d.isLt
  refine ⟨sumStep_toNat s d, ?_⟩
  rw [sumStep_toNat, sumStepInt, sumCarry]
  simp only [decide_eq_true_eq]
  split <;> omega

end Sys2Proof.Machine
end

section
/-! PROOFS. The read family (42_read.md): what the four reads put on `dout` (R57 to R60), and how the three reads of the CRC
belong together. -/

namespace Sys2Proof.Machine

/-- A 16-bit value in numbers, from its two lanes. -/
theorem toNat_eq_lanes (v : Half) : v.toNat = (lane1 v).toNat * 256 + (lane0 v).toNat := by
  have hv := v.isLt
  rw [lane0, lane1, BitVec.extractLsb'_toNat, BitVec.extractLsb'_toNat, Nat.shiftRight_zero, Nat.shiftRight_eq_div_pow]
  omega

/-! ## The obligations -/

/-- Settles O9: both lanes of a zero-extended byte are known, and where the registers reflect a stream that byte is its sum. -/
theorem rdsumOutputsTheSum : Obligations.RdsumOutputsTheSum := by
  refine ⟨fun s => ⟨zext16 s.sum, exec_rdsum s, lane0_zext16 _, lane1_zext16 _⟩, fun s S ⟨_, hsum⟩ => ?_⟩
  rw [← hsum]
  exact exec_rdsum s

/-- Settles O10: the value driven is `CRC`, which is the stream's CRC where the registers reflect one. -/
theorem rdcrcOutputsTheCrc : Obligations.RdcrcOutputsTheCrc := by
  refine ⟨exec_rdcrc, fun s S ⟨hcrc, _⟩ => ?_⟩
  rw [← hcrc]
  exact exec_rdcrc s

/-- Settles O11: the value driven is lane 0 zero-extended, and lane 0 goes first on the wire. -/
theorem rdclOutputsTheLowByte : Obligations.RdclOutputsTheLowByte := by
  intro s
  have low : lane0 (zext16 (lane0 s.crc)) = lane0 s.crc := lane0_zext16 _
  exact ⟨zext16 (lane0 s.crc), exec_rdcl s, low, lane1_zext16 _, congrArg some low.symm⟩

/-- Settles O12: the value driven is lane 1 zero-extended, and lane 1 goes second on the wire. -/
theorem rdchOutputsTheHighByte : Obligations.RdchOutputsTheHighByte := by
  intro s
  have low : lane0 (zext16 (lane1 s.crc)) = lane1 s.crc := lane0_zext16 _
  exact ⟨zext16 (lane1 s.crc), exec_rdch s, low, lane1_zext16 _, congrArg some low.symm⟩

/-- Settles O13: the two bytes read are the lanes of `CRC`, and zero extension keeps their values. -/
theorem theByteReadsMakeUpTheCrc : Obligations.TheByteReadsMakeUpTheCrc := by
  intro s
  refine ⟨s.crc, zext16 (lane0 s.crc), zext16 (lane1 s.crc), exec_rdcrc s, exec_rdcl s, exec_rdch s, ?_,
    Nat.le_of_lt_succ (zext16_toNat_lt _), Nat.le_of_lt_succ (zext16_toNat_lt _)⟩
  rw [zext16_toNat, zext16_toNat]
  exact toNat_eq_lanes s.crc

end Sys2Proof.Machine
end

section
/-! PROOFS. The functions family (43_functions.md): the two functions of a buffer (R61 to R64), the laws of the sum (R65) and of the
CRC (R66 to R70), the wire bytes (R72), the sequences that compute the functions (R63) and the boundary (R73 to R75). -/

namespace Sys2Proof.Machine

/-! ## The sum of a buffer -/

theorem sumFrom_eq_add (s : Byte) (data : List Byte) : sumFrom s data = s + data.sum := by
  induction data generalizing s with
  | nil => exact (BitVec.add_zero s).symm
  | cons d data ih => rw [sumFrom_cons, ih, sumStep_eq_add, List.sum_cons, BitVec.add_assoc]

/-- The additive checksum is the sum of the bytes in the ring of bytes (R61). -/
theorem additiveChecksum_eq_sum (data : List Byte) : additiveChecksum data = data.sum := by
  rw [additiveChecksum, sumFrom_eq_add]
  exact BitVec.zero_add _

theorem additiveChecksum_append (a b : List Byte) :
    additiveChecksum (a ++ b) = additiveChecksum a + additiveChecksum b := by
  simp only [additiveChecksum_eq_sum, List.sum_append]

theorem additiveChecksum_cons (d : Byte) (data : List Byte) :
    additiveChecksum (d :: data) = d + additiveChecksum data := by
  simp only [additiveChecksum_eq_sum, List.sum_cons]

theorem additiveChecksum_perm {a b : List Byte} (h : a.Perm b) : additiveChecksum a = additiveChecksum b := by
  simp only [additiveChecksum_eq_sum, h.sum_eq]

/-- A byte that comes 256 times adds nothing. -/
theorem additiveChecksum_replicate_256 (d : Byte) : additiveChecksum (List.replicate 256 d) = 0x00#8 := by
  rw [additiveChecksum_eq_sum, List.sum_replicate, nsmul_eq_mul]
  exact BitVec.zero_mul

theorem additiveChecksum_toNat (data : List Byte) : (additiveChecksum data).toNat = (data.map BitVec.toNat).sum % 256 := by
  induction data with
  | nil => rfl
  | cons d data ih =>
    rw [additiveChecksum_cons, BitVec.toNat_add, ih, List.map_cons, List.sum_cons]
    exact Nat.add_mod_mod _ _ _

theorem additiveChecksum_ne_of_changed (a b : List Byte) {x y : Byte} (h : x ≠ y) :
    additiveChecksum (a ++ x :: b) ≠ additiveChecksum (a ++ y :: b) := by
  simpa only [additiveChecksum_append, additiveChecksum_cons, ne_eq, BitVec.add_right_inj, BitVec.add_left_inj] using h

/-- Two changes cancel in the ring of bytes when their integer differences add to a multiple of 256. -/
theorem add_eq_add_of_differences_cancel {x y x' y' : Byte}
    (h : (((x'.toNat : Int) - x.toNat) + ((y'.toNat : Int) - y.toNat)) % 256 = 0) : x + y = x' + y' := by
  apply BitVec.eq_of_toNat_eq
  rw [BitVec.toNat_add, BitVec.toNat_add]
  omega

/-! ## The CRC of a buffer -/

theorem crcFrom_toNat (a : Half) (data : List Byte) :
    (crcFrom a data).toNat = (data.map BitVec.toNat).foldl crcByteInt a.toNat := by
  rw [List.foldl_map]
  exact (List.foldl_hom BitVec.toNat fun a d => (crcByte_toNat a d).symm).symm

/-- The CRC of a concatenation goes on from the CRC of the first part (R66). -/
theorem crc16Xmodem_append (a b : List Byte) : crc16Xmodem (a ++ b) = crcFrom (crc16Xmodem a) b := crcFrom_append _ a b

theorem crcFrom_zero_replicate_zero (n : Nat) : crcFrom 0x0000#16 (List.replicate n 0x00#8) = 0x0000#16 := by
  induction n with
  | zero => rfl
  | succ n ih => rw [List.replicate_succ, crcFrom_cons, highByteMovesTheLowByteUp.2, ih]

/-- Absorbing the two lanes of the accumulator, lane 1 first, empties it: each moves the rest up by a byte. -/
theorem crcFrom_own_lanes (v : Half) : crcFrom v [lane1 v, lane0 v] = 0x0000#16 := by
  obtain ⟨moves_up, -⟩ := highByteMovesTheLowByteUp
  rw [crcFrom_cons, crcFrom_cons, crcFrom_nil, moves_up, ← lane1_shiftLeft_8 v, moves_up, ← BitVec.shiftLeft_add]
  exact BitVec.shiftLeft_eq_zero (by decide)

/-! ## Linearity (R67) -/

theorem crcXorin_xor (p q : Half) (x y : Byte) : crcXorin (p ^^^ q) (x ^^^ y) = crcXorin p x ^^^ crcXorin q y := by
  simp only [crcXorin, BitVec.setWidth_xor, BitVec.shiftLeft_xor_distrib]
  ac_rfl

theorem crcByte_xor (p q : Half) (x y : Byte) : crcByte (p ^^^ q) (x ^^^ y) = crcByte p x ^^^ crcByte q y := by
  rw [crcByte, crcXorin_xor, crcRounds_xor, crcByte, crcByte]

theorem crcFrom_xorBuffers (p q : Half) {a b : List Byte} (h : a.length = b.length) :
    crcFrom (p ^^^ q) (xorBuffers a b) = crcFrom p a ^^^ crcFrom q b := by
  induction a generalizing p q b with
  | nil =>
    cases List.length_eq_zero_iff.mp h.symm
    rfl
  | cons x a ih =>
    obtain ⟨y, b, rfl⟩ := List.exists_cons_of_length_eq_add_one h.symm
    rw [xorBuffers, List.zipWith_cons_cons, crcFrom_cons, crcByte_xor]
    exact ih _ _ (Nat.succ.inj h)

/-! ## The round and the byte step are bijections (R70) -/

/-- The bits of the inverse round: bit 0 goes back to the top, and below it the polynomial is taken out and the rest moved down. -/
theorem crcUnround_getLsbD (r : Half) {i : Nat} (hi : i < 16) :
    (crcUnround r).getLsbD i =
      if i = 15 then r.getLsbD 0 else (r.getLsbD (i + 1) ^^ (r.getLsbD 0 && Config.polynomial.getLsbD (i + 1))) := by
  have top : ∀ i < 16, (0x8000#16).getLsbD i = decide (i = 15) := by decide
  unfold crcUnround
  cases h0 : r.getLsbD 0 with
  | true =>
    rw [if_pos rfl, BitVec.getLsbD_or, BitVec.getLsbD_ushiftRight, BitVec.getLsbD_xor, top i hi, Nat.add_comm 1 i]
    by_cases h : i = 15 <;> simp [h]
  | false =>
    rw [if_neg (by simp), BitVec.getLsbD_ushiftRight, Nat.add_comm 1 i]
    by_cases h : i = 15 <;> simp [h]

theorem crcUnround_crcRound (a : Half) : crcUnround (crcRound a) = a := by
  apply BitVec.eq_of_getLsbD_eq
  intro i hi
  rw [crcUnround_getLsbD _ hi, crcRound_getLsbD_zero]
  by_cases h : i = 15
  · simp [h]
  · simp [h, crcRound_getLsbD a (show i + 1 < 16 by omega)]

theorem crcRound_crcUnround (a : Half) : crcRound (crcUnround a) = a := by
  have top : (crcUnround a).getLsbD 15 = a.getLsbD 0 := crcUnround_getLsbD a (by decide)
  apply BitVec.eq_of_getLsbD_eq
  intro i hi
  rw [crcRound_getLsbD _ hi, top]
  cases i with
  | zero =>
    rw [(polynomial_getLsbD 0).mpr (by decide)]
    simp
  | succ i => simp [crcUnround_getLsbD a (show i < 16 by omega), show i ≠ 15 by omega]

theorem crcRound_bijective : Function.Bijective crcRound :=
  Function.bijective_iff_has_inverse.mpr ⟨crcUnround, crcUnround_crcRound, crcRound_crcUnround⟩

theorem crcRounds_bijective (n : Nat) : Function.Bijective (crcRounds n) := by
  induction n with
  | zero => exact Function.bijective_id
  | succ n ih => exact ih.comp crcRound_bijective

theorem crcXorin_bijective (d : Byte) : Function.Bijective fun a => crcXorin a d :=
  Function.Involutive.bijective fun a => by simp only [crcXorin, BitVec.xor_assoc, BitVec.xor_self, BitVec.xor_zero]

theorem crcXorin_injective (a : Half) : Function.Injective (crcXorin a) := by
  intro x y h
  have high (d : Byte) : lane1 (crcXorin a d) = lane1 a ^^^ d := (xorinChangesTheHighByteOnly a d).2.1
  have := congrArg lane1 h
  rwa [high, high, BitVec.xor_right_inj] at this

theorem crcByte_bijective (d : Byte) : Function.Bijective fun a => crcByte a d :=
  (crcRounds_bijective Config.roundsPerByte).comp (crcXorin_bijective d)

theorem crcByte_injective (a : Half) : Function.Injective (crcByte a) :=
  (crcRounds_bijective Config.roundsPerByte).injective.comp (crcXorin_injective a)

theorem crcFrom_injective (data : List Byte) : Function.Injective fun a => crcFrom a data := by
  induction data with
  | nil => exact Function.injective_id
  | cons d data ih => exact ih.comp (crcByte_bijective d).injective

/-- The changed byte makes two accumulators differ, and no later byte makes them equal again. -/
theorem crc16Xmodem_ne_of_changed (a b : List Byte) {x y : Byte} (h : x ≠ y) :
    crc16Xmodem (a ++ x :: b) ≠ crc16Xmodem (a ++ y :: b) := by
  rw [crc16Xmodem_append, crc16Xmodem_append, crcFrom_cons, crcFrom_cons]
  exact (crcFrom_injective b).ne ((crcByte_injective _).ne h)

/-! ## The wire bytes (R72) -/

theorem fromLe_lanes (v : Half) : fromLe (lane0 v) (lane1 v) = v := by rw [fromLe_eq_append, lanes_append]

theorem leBytes_fromLe (b0 b1 : Byte) : leBytes (fromLe b0 b1) = [b0, b1] := by
  rw [fromLe_eq_append, leBytes, lane0_append, lane1_append]

theorem fromLe_toNat (b0 b1 : Byte) : (fromLe b0 b1).toNat = b1.toNat * 256 + b0.toNat := by
  rw [toNat_eq_lanes, fromLe_eq_append, lane0_append, lane1_append]

/-! ## Programs over the registers

What a program does is said here without the port: its final registers and its outputs are functions of the registers it starts from.
`runGives_of_presents` ties both to the run of the clocked machine. -/

/-- The registers after one instruction. -/
def Registers.after (r : Registers) (i : Instr) : Registers where
  crc := accumulatorAfter Config.crcInit crcByte r.crc i
  sum := accumulatorAfter Config.sumInit sumStep r.sum i

/-- What one instruction drives on `dout`, if anything (R43). -/
def Registers.output (r : Registers) : Instr → Option Half
  | .rdsum => some (zext16 r.sum)
  | .rdcrc => some r.crc
  | .rdcl => some (zext16 (lane0 r.crc))
  | .rdch => some (zext16 (lane1 r.crc))
  | _ => none

/-- The registers after a program. -/
def Registers.afterProgram (r : Registers) (prog : List Instr) : Registers := prog.foldl Registers.after r

/-- The outputs of a program, in order (R98). -/
def Registers.outputs (r : Registers) : List Instr → List Half
  | [] => []
  | i :: prog => (r.output i).toList ++ (r.after i).outputs prog

@[simp] theorem Registers.afterProgram_nil (r : Registers) : r.afterProgram [] = r := rfl
@[simp] theorem Registers.afterProgram_cons (r : Registers) (i : Instr) (prog : List Instr) :
    r.afterProgram (i :: prog) = (r.after i).afterProgram prog := rfl
@[simp] theorem Registers.outputs_nil (r : Registers) : r.outputs [] = [] := rfl
@[simp] theorem Registers.outputs_cons (r : Registers) (i : Instr) (prog : List Instr) :
    r.outputs (i :: prog) = (r.output i).toList ++ (r.after i).outputs prog := rfl

theorem Registers.afterProgram_append (r : Registers) (p q : List Instr) :
    r.afterProgram (p ++ q) = (r.afterProgram p).afterProgram q := List.foldl_append

theorem Registers.outputs_append (r : Registers) (p q : List Instr) :
    r.outputs (p ++ q) = r.outputs p ++ (r.afterProgram p).outputs q := by
  induction p generalizing r with
  | nil => rfl
  | cons i p ih => rw [List.cons_append, outputs_cons, ih, outputs_cons, afterProgram_cons, List.append_assoc]

/-- Where the spec's step answers, it answers the registers and the output of the decoded instruction. -/
theorem specStep_eq_some {r r' : Registers} {w : CommandWord} {out : Option Half} (h : specStep r w = some (r', out)) :
    r' = r.after (decode w) ∧ out = r.output (decode w) := by
  unfold specStep at h
  split at h <;> cases h <;> simp [*, Registers.after, Registers.output, accumulatorAfter, Config.crcInit, Config.sumInit]

/-- Where the spec's run answers, so does its first step, and the run over the rest goes on from there. -/
theorem specRun_command_eq_some {es : List Event} {w : CommandWord} {r u : Registers} {outs : List Half}
    (h : specRun (.command w :: es) r = some (u, outs)) :
    ∃ rest, specRun es (r.after (decode w)) = some (u, rest) ∧ outs = (r.output (decode w)).toList ++ rest := by
  simp only [specRun] at h
  split at h
  · cases h
  · next hw =>
    obtain ⟨rfl, rfl⟩ := specStep_eq_some hw
    split at h
    · cases h
    · next hes =>
      cases h
      exact ⟨_, hes, rfl⟩

/-- Where the spec's run over a program's words answers, it answers the program's registers and outputs. -/
theorem specRun_eq_program {es : List Event} {prog : List Instr} {r u : Registers} {outs : List Half}
    (hp : es.map Event.instr = prog.map some) (h : specRun es r = some (u, outs)) :
    u = r.afterProgram prog ∧ outs = r.outputs prog := by
  induction es generalizing prog r outs with
  | nil =>
    cases List.map_eq_nil_iff.mp hp.symm
    cases h
    exact ⟨rfl, rfl⟩
  | cons ev es ih =>
    obtain ⟨i, prog, rfl, hi, hrest⟩ := List.map_eq_cons_iff.mp hp.symm
    cases ev with
    | reset => cases hi
    | command w =>
      cases hi
      obtain ⟨outs, hes, rfl⟩ := specRun_command_eq_some h
      obtain ⟨rfl, rfl⟩ := ih hrest.symm hes
      exact ⟨rfl, rfl⟩

/-- A run that presents a program ends in the program's registers and gives its outputs, at any timing. -/
theorem runGives_of_presents {s : State} {prog : List Instr} (h : Safety.Presents s prog) :
    Safety.RunGives s (s.registers.afterProgram prog) (s.registers.outputs prog) := by
  obtain ⟨hk, hp⟩ := h
  obtain ⟨r, outs, hspec, hrun⟩ := runsFollowTheSpecStep s hk
  obtain ⟨rfl, rfl⟩ := specRun_eq_program hp hspec
  exact hrun

/-! ## The sequences of R63 -/

/-- The registers that hold the two functions of a buffer. -/
def functionsOf (data : List Byte) : Registers := ⟨crc16Xmodem data, additiveChecksum data⟩

@[simp] theorem Registers.after_init (r : Registers) : r.after .init = functionsOf [] := rfl

theorem Registers.afterProgram_absN (r : Registers) (data : List Byte) :
    r.afterProgram (absN data) = ⟨crcFrom r.crc data, sumFrom r.sum data⟩ := by
  induction data generalizing r with
  | nil => rfl
  | cons d data ih => exact ih (r.after (.abs d))

theorem Registers.outputs_absN (r : Registers) (data : List Byte) : r.outputs (absN data) = [] := by
  induction data generalizing r with
  | nil => rfl
  | cons d data ih => exact ih (r.after (.abs d))

/-- From cleared registers, the bytes of a buffer and then any operations: the operations run on the buffer's functions. -/
theorem runGives_absN {s : State} {data : List Byte} {prog : List Instr} (hs : s.registers = functionsOf [])
    (h : Safety.Presents s (absN data ++ prog)) :
    Safety.RunGives s ((functionsOf data).afterProgram prog) ((functionsOf data).outputs prog) := by
  have run := runGives_of_presents h
  rw [Registers.afterProgram_append, Registers.outputs_append, Registers.afterProgram_absN, Registers.outputs_absN, hs] at run
  exact run

/-- The same from any registers when `INIT` comes first. -/
theorem runGives_init_absN {s : State} {data : List Byte} {prog : List Instr}
    (h : Safety.Presents s (.init :: (absN data ++ prog))) :
    Safety.RunGives s ((functionsOf data).afterProgram prog) ((functionsOf data).outputs prog) := by
  have run := runGives_of_presents h
  rw [Registers.afterProgram_cons, Registers.outputs_cons, Registers.afterProgram_append, Registers.outputs_append,
    Registers.after_init, Registers.afterProgram_absN, Registers.outputs_absN] at run
  exact run

/-! ## The boundary (R73 to R75) -/

/-- The reply that carries a buffer's own result. -/
def ownReply : (k : WriteKind) → List Byte → Reply k
  | .block, data => .block (additiveChecksum data)
  | .sector, data => .sector (lane0 (crc16Xmodem data)) (lane1 (crc16Xmodem data))

/-- The reads at the end of a write's operations. -/
def resultReads : WriteKind → List Instr
  | .block => [.rdsum]
  | .sector => emitLe

/-- Both kinds of write have one shape: `INIT`, the bytes, and the reads of the result. -/
theorem resultProgram_eq (k : WriteKind) (data : List Byte) :
    resultProgram k data = .init :: (absN data ++ resultReads k) := by
  cases k <;> rfl

/-- A device that runs a write's operations over a buffer replies with the buffer's own result. -/
theorem resultProgram_gives_ownReply {k : WriteKind} {s : State} {data : List Byte}
    (h : Safety.Presents s (resultProgram k data)) :
    ∃ r outs, Safety.RunGives s r outs ∧ replyOfOutputs k outs = some (ownReply k data) := by
  rw [resultProgram_eq] at h
  refine ⟨_, _, runGives_init_absN h, ?_⟩
  cases k with
  | block => exact congrArg (fun b => some (Reply.block b)) (lane0_zext16 _)
  | sector => exact congrArg₂ (fun b0 b1 => some (Reply.sector b0 b1)) (lane0_zext16 _) (lane0_zext16 _)

theorem compareResult_ownReply (k : WriteKind) (data : List Byte) : compareResult data (ownReply k data) = .ok () := by
  cases k with
  | block => simp [ownReply]
  | sector => simp [ownReply, fromLe_lanes]

theorem compareResult_ownReply_of_changed (k : WriteKind) (a b : List Byte) {x y : Byte} (h : x ≠ y) :
    compareResult (a ++ y :: b) (ownReply k (a ++ x :: b)) = .error .checksumMismatch := by
  cases k with
  | block => simp [ownReply, additiveChecksum_ne_of_changed a b h]
  | sector => simp [ownReply, fromLe_lanes, crc16Xmodem_ne_of_changed a b h]

theorem compareResult_block_eq_mismatch (data : List Byte) (r : Byte) :
    compareResult data (.block r) = .error .checksumMismatch ↔ r ≠ additiveChecksum data := by
  simp

theorem compareResult_sector_eq_mismatch (data : List Byte) (b0 b1 : Byte) :
    compareResult data (.sector b0 b1) = .error .checksumMismatch ↔
      b1.toNat * 256 + b0.toNat ≠ (crc16Xmodem data).toNat := by
  rw [← fromLe_toNat, ne_eq, BitVec.toNat_inj]
  simp

theorem exists_payload_iff (k : WriteKind) (data : List Byte) :
    (∃ p : Payload k, payloadOf k data = some p ∧ p.data = data) ↔ data.length = k.payloadLength := by
  constructor
  · rintro ⟨p, -, rfl⟩
    exact p.length_eq
  · intro h
    exact ⟨⟨data, h⟩, payloadOf_eq_some.mpr rfl, rfl⟩

theorem streamAfter_absN (S data : List Byte) : (absN data).foldl streamAfter S = S ++ data := by
  induction data generalizing S with
  | nil => exact (List.append_nil S).symm
  | cons d data ih => exact (ih (S ++ [d])).trans (List.append_assoc S [d] data)

/-- Whatever was absorbed before, `INIT` drops it and the reads at the end add nothing (R19). -/
theorem streamAfter_resultProgram (k : WriteKind) (S data : List Byte) :
    (resultProgram k data).foldl streamAfter S = data := by
  have absorbed : (absN data).foldl streamAfter [] = data := streamAfter_absN [] data
  rw [resultProgram_eq, List.foldl_cons, List.foldl_append, streamAfter, absorbed]
  cases k <;> rfl

theorem replyOfOutputs_block_isSome (outs : List Half) : (replyOfOutputs .block outs).isSome = true ↔ outs.length = 1 := by
  obtain _ | ⟨v, _ | ⟨w, rest⟩⟩ := outs <;> simp [replyOfOutputs]

theorem replyOfOutputs_sector_isSome (outs : List Half) : (replyOfOutputs .sector outs).isSome = true ↔ outs.length = 2 := by
  obtain _ | ⟨lo, _ | ⟨hi, _ | ⟨w, rest⟩⟩⟩ := outs <;> simp [replyOfOutputs]

/-! ## The obligations -/

/-- Settles O30, bit by bit: bit 0 of a round's result is the bit that left at the top, which tells whether the polynomial went in. -/
theorem roundHasTheGivenInverse : Obligations.RoundHasTheGivenInverse :=
  fun a => ⟨crcUnround_crcRound a, crcRound_crcUnround a⟩

/-- Settles O34, by induction on the buffer. -/
theorem additiveChecksumIsTheSumModulo256 : Obligations.AdditiveChecksumIsTheSumModulo256 := additiveChecksum_toNat

/-- Settles O35: `toNat` carries the fold of the byte step to the fold of the integer byte step. -/
theorem crc16XmodemFollowsTheIntegerPseudocode : Obligations.Crc16XmodemFollowsTheIntegerPseudocode :=
  crcFrom_toNat Config.crcInit

/-- Settles O37: the checksum is the sum in the ring of bytes, where each law is one of addition. -/
theorem lawsOfTheSum : Obligations.LawsOfTheSum := by
  refine ⟨fun a b => ?_, fun a b => additiveChecksum_perm, fun a b => ?_,
    ⟨additiveChecksum_replicate_256 _, additiveChecksum_replicate_256 _⟩,
    fun a b x y => additiveChecksum_ne_of_changed a b, fun a b c x y x' y' h => ?_⟩
  · rw [additiveChecksum_append, BitVec.toNat_add]
  · rw [additiveChecksum_append, additiveChecksum_cons, BitVec.zero_add, additiveChecksum_append]
  · have cancel := add_eq_add_of_differences_cancel h
    simp only [additiveChecksum_append, additiveChecksum_cons]
    linear_combination cancel

/-- Settles O39: the byte step is linear, and 0 is the XOR of two initial values 0. -/
theorem crcIsLinear : Obligations.CrcIsLinear :=
  ⟨fun _ _ => crcFrom_xorBuffers Config.crcInit Config.crcInit, fun p q _ _ => crcFrom_xorBuffers p q⟩

/-- Settles O40: a zero byte leaves a zero accumulator. -/
theorem leadingZerosAreInvisible : Obligations.LeadingZerosAreInvisible := by
  intro n a
  have zeros : crc16Xmodem (List.replicate n 0x00#8) = 0x0000#16 := crcFrom_zero_replicate_zero n
  exact ⟨by rw [crc16Xmodem_append, zeros]; rfl, zeros⟩

/-- Settles O41: the accumulator's own lanes empty it; the example in wire order is evaluated. -/
theorem crcResidueIsZero : Obligations.CrcResidueIsZero := by
  refine ⟨fun a => ?_, _, rfl, ?_⟩
  · rw [crc16Xmodem_append, crcFrom_own_lanes]
  · decide +kernel

/-- Settles O42: a round has an inverse, so that the byte step is a bijection and a difference once made stays. -/
theorem crcDetectsOneChangedByte : Obligations.CrcDetectsOneChangedByte :=
  ⟨crcRound_bijective, crcByte_bijective, crcByte_injective, fun a b _ _ => crc16Xmodem_ne_of_changed a b⟩

/-- Settles O43: a 16-bit value is its two lanes, which the two byte reads drive zero-extended. -/
theorem wireBytesAreLowByteFirst : Obligations.WireBytesAreLowByteFirst :=
  ⟨fun v => ⟨lane0 v, lane1 v, rfl, rfl, rfl, fromLe_lanes v⟩, fun b0 b1 => ⟨leBytes_fromLe b0 b1, fromLe_toNat b0 b1⟩,
    ⟨by decide, by decide⟩, fun s => ⟨lane0 s.crc, lane1 s.crc, rfl, exec_rdcl s, exec_rdch s⟩⟩

/-- Settles O46: after the bytes the registers hold the buffer's functions, and the reads drive them and keep them. -/
theorem sequencesComputeTheFunctions : Obligations.SequencesComputeTheFunctions :=
  fun _ _ => ⟨runGives_init_absN, runGives_init_absN, runGives_init_absN, runGives_absN⟩

/-- Settles O59: the device replies with the received buffer's own result, which a buffer with one byte changed does not have. -/
theorem writeVerificationDetectsOneChangedByte : Obligations.WriteVerificationDetectsOneChangedByte := by
  refine ⟨fun k s received h => ?_, fun k s received h => ?_⟩
  · obtain ⟨r, outs, run, reply⟩ := resultProgram_gives_ownReply h
    refine ⟨r, outs, _, run, reply, compareResult_ownReply k received.data, fun sent a b x y hreceived hsent hxy => ?_⟩
    rw [verifyWrite_eq, hsent, hreceived]
    exact compareResult_ownReply_of_changed k a b hxy
  · obtain ⟨r, outs, run, reply⟩ := resultProgram_gives_ownReply h
    refine ⟨r, outs, _, run, reply, compareResult_ownReply k received, fun a b x y hreceived hxy => ?_⟩
    rw [hreceived]
    exact compareResult_ownReply_of_changed k a b hxy

/-- Settles O36: over no bytes both loops return their starting values. -/
theorem emptyBufferGivesZero : Obligations.EmptyBufferGivesZero := ⟨rfl, rfl⟩

/-- Settles O38: a fold over a concatenation is the fold over its second part from the fold over its first. -/
theorem crcChains : Obligations.CrcChains := crc16Xmodem_append

/-- Settles O57: a payload is compared as its bytes are, and a wire pair is the value it stands for. -/
theorem mismatchIffTheResultsDiffer : Obligations.MismatchIffTheResultsDiffer :=
  ⟨fun sent => compareResult_block_eq_mismatch sent.data, fun sent => compareResult_sector_eq_mismatch sent.data,
    compareResult_block_eq_mismatch, compareResult_sector_eq_mismatch⟩

/-- Settles O60: a payload carries its length, `INIT` starts its stream, and a reply takes one output or two. -/
theorem deviceAbsorbsExactlyThePayload : Obligations.DeviceAbsorbsExactlyThePayload :=
  ⟨exists_payload_iff .block, exists_payload_iff .sector, fun k received S => streamAfter_resultProgram k S received.data,
    replyOfOutputs_block_isSome, replyOfOutputs_sector_isSome⟩

end Sys2Proof.Machine
end

section
/-! PROOFS. The exceptions family (60_exceptions.md): every operation completes (R77). -/

namespace Sys2Proof.Machine

/-- Settles O15, operation by operation; the two reserved instructions are not well formed (R41). -/
theorem everyOperationCompletes : Obligations.EveryOperationCompletes := by
  intro i s hi
  cases i with
  | init => exact ⟨_, exec_init s⟩
  | abs d => exact ⟨_, exec_abs d s⟩
  | rdsum => exact ⟨_, exec_rdsum s⟩
  | rdcrc => exact ⟨_, exec_rdcrc s⟩
  | rdcl => exact ⟨_, exec_rdcl s⟩
  | rdch => exact ⟨_, exec_rdch s⟩
  | reserved6 => cases hi
  | reserved7 => cases hi

end Sys2Proof.Machine
end

section
/-! PROOFS. The reset and hazards family (70_reset_and_hazards.md): reset and the broken handshake (R87, R88, R96), the host's table
(R97, R99), and what runs give when two buffers or two reads meet on one block (R91 to R94). -/

namespace Sys2Proof.Machine

/-! ## Reads beside the other operations (R29) -/

/-- A read leaves the registers alone. -/
theorem Registers.after_of_isRead (r : Registers) {i : Instr} (h : Safety.isRead i = true) : r.after i = r := by
  cases i with
  | init | abs | reserved6 | reserved7 => cases h
  | rdsum | rdcrc | rdcl | rdch => rfl

/-- Only a read drives `dout`. -/
theorem Registers.output_of_not_isRead (r : Registers) {i : Instr} (h : Safety.isRead i = false) : r.output i = none := by
  cases i with
  | init | abs | reserved6 | reserved7 => rfl
  | rdsum | rdcrc | rdcl | rdch => cases h

theorem Registers.afterProgram_of_reads (r : Registers) {reads : List Instr} (h : ∀ i ∈ reads, Safety.isRead i = true) :
    r.afterProgram reads = r := by
  induction reads with
  | nil => rfl
  | cons i reads ih =>
    obtain ⟨hi, hreads⟩ := List.forall_mem_cons.mp h
    rw [afterProgram_cons, after_of_isRead r hi, ih hreads]

theorem Registers.afterProgram_without_reads (r : Registers) (prog : List Instr) :
    r.afterProgram (prog.filter fun i => !Safety.isRead i) = r.afterProgram prog := by
  induction prog generalizing r with
  | nil => rfl
  | cons i prog ih =>
    cases hi : Safety.isRead i with
    | true => rw [List.filter_cons_of_neg (by simp [hi]), ih, afterProgram_cons, after_of_isRead r hi]
    | false => rw [List.filter_cons_of_pos (by simp [hi]), afterProgram_cons, ih, afterProgram_cons]

theorem Registers.outputs_without_reads (r : Registers) (prog : List Instr) :
    r.outputs (prog.filter fun i => !Safety.isRead i) = [] := by
  induction prog generalizing r with
  | nil => rfl
  | cons i prog ih =>
    cases hi : Safety.isRead i with
    | true => rw [List.filter_cons_of_neg (by simp [hi]), ih]
    | false => rw [List.filter_cons_of_pos (by simp [hi]), outputs_cons, output_of_not_isRead r hi, ih]; rfl

/-! ## Two buffers on one block -/

/-- Absorbing a second buffer makes the registers those of the concatenation (R65, R66). -/
theorem functionsOf_afterProgram_absN (a b : List Byte) : (functionsOf a).afterProgram (absN b) = functionsOf (a ++ b) := by
  rw [Registers.afterProgram_absN]
  exact congrArg₂ Registers.mk (crc16Xmodem_append a b).symm (sumFrom_append _ a b).symm

theorem additiveChecksum_append_toNat (a b : List Byte) :
    (additiveChecksum (a ++ b)).toNat = ((additiveChecksum a).toNat + (additiveChecksum b).toNat) % 256 := by
  rw [additiveChecksum_append]
  exact BitVec.toNat_add _ _

/-- Two buffers, each followed by reads, with no `INIT` between: the first reads see the first buffer's functions, the second reads
those of the concatenation. -/
theorem runGives_two_buffers {s : State} {a b : List Byte} {first second : List Instr}
    (hfirst : ∀ i ∈ first, Safety.isRead i = true) (hsecond : ∀ i ∈ second, Safety.isRead i = true)
    (h : Safety.Presents s (.init :: absN a ++ first ++ absN b ++ second)) :
    Safety.RunGives s (functionsOf (a ++ b)) ((functionsOf a).outputs first ++ (functionsOf (a ++ b)).outputs second) := by
  have run := runGives_init_absN (s := s) (data := a) (prog := first ++ (absN b ++ second)) (by simpa using h)
  simpa only [Registers.afterProgram_append, Registers.outputs_append, Registers.afterProgram_of_reads _ hfirst,
    Registers.afterProgram_of_reads _ hsecond, functionsOf_afterProgram_absN, Registers.outputs_absN, List.nil_append] using run

/-! ## A wire pair in the wrong order -/

/-- The two lanes exchanged make the same value only if they are equal. -/
theorem fromLe_swapped_lanes_iff (v : Half) : fromLe (lane1 v) (lane0 v) = v ↔ lane0 v = lane1 v := by
  constructor
  · intro h
    calc lane0 v = lane1 (fromLe (lane1 v) (lane0 v)) := by rw [fromLe_eq_append, lane1_append]
      _ = lane1 v := by rw [h]
  · intro h
    calc fromLe (lane1 v) (lane0 v) = fromLe (lane0 v) (lane1 v) := by rw [h]
      _ = v := fromLe_lanes v

/-- The comparison accepts the buffer's own CRC with its lanes exchanged only if they are equal. -/
theorem compareResult_swapped_iff (data : List Byte) :
    compareResult data (.sector (lane1 (crc16Xmodem data)) (lane0 (crc16Xmodem data))) = .ok () ↔
      lane0 (crc16Xmodem data) = lane1 (crc16Xmodem data) := by
  rw [← fromLe_swapped_lanes_iff, compareResult_sector]
  split <;> simp [*]

/-! ## The obligations -/

/-- Settles O47: the second buffer is absorbed onto the functions of the first, which the reads between have left in place. -/
theorem missingInitConcatenates : Obligations.MissingInitConcatenates := by
  intro s a b h
  have run := runGives_two_buffers (by decide) (by decide) h
  exact ⟨_, _, run, crc16Xmodem_append a b, rfl, rfl, additiveChecksum_append_toNat a b⟩

/-- Settles O48: one stream is absorbed, and its sum does not depend on the order of its bytes. -/
theorem interleavedBuffersAreOneStream : Obligations.InterleavedBuffersAreOneStream := by
  intro s a b stream hperm h
  refine ⟨_, additiveChecksum stream, runGives_init_absN h, ?_⟩
  rw [additiveChecksum_perm hperm, additiveChecksum_append_toNat]

/-- Settles O49: `RDCL` sees the functions of the first buffer, `RDCH` those of the concatenation. -/
theorem tornPairMixesTwoValues : Obligations.TornPairMixesTwoValues := by
  intro s a b h
  exact ⟨_, runGives_two_buffers (by decide) (by decide) h, rfl⟩

/-- Settles O50: a read leaves the registers alone, and only a read drives `dout`. -/
theorem readsDoNotDisturbTheRun : Obligations.ReadsDoNotDisturbTheRun := by
  intro s s' prog hs h h'
  have run' := runGives_of_presents h'
  rw [Registers.afterProgram_without_reads, Registers.outputs_without_reads, ← hs] at run'
  exact ⟨_, _, runGives_of_presents h, run'⟩

/-- Settles O52: both runs follow the spec's step over the same events. -/
theorem timingIsInvisible : Obligations.TimingIsInvisible := by
  intro s s' hk hk' hevents hs
  obtain ⟨r, outs, hspec, run⟩ := runsFollowTheSpecStep s hk
  obtain ⟨r', outs', hspec', run'⟩ := runsFollowTheSpecStep s' hk'
  rw [hevents, hs, hspec'] at hspec
  cases hspec
  exact ⟨_, _, run, run'⟩

/-- Settles O54, by the three kinds of edge; with nothing listed the edge is a quiet one. -/
theorem stepKeepsTheHostTable : Obligations.StepKeepsTheHostTable := by
  intro s hk
  cases hi : s.input with
  | nil => exact ⟨_, step_nil hi, by rw [State.noAccept_input, hi]; rfl⟩
  | cons e rest =>
    obtain ⟨t, hstep, hinput, hk', -⟩ := step_extends_specRun hi (hi ▸ hk)
    exact ⟨t, hstep, hinput ▸ hk'⟩

/-- Settles O53: the table is an invariant under which every step answers. -/
theorem hostThatKeepsTheRulesIsNeverRefused : Obligations.HostThatKeepsTheRulesIsNeverRefused := by
  intro s hk n
  induction n generalizing s with
  | zero => exact ⟨_, runSteps_zero s⟩
  | succ n ih =>
    obtain ⟨t, hstep, hk'⟩ := stepKeepsTheHostTable s hk
    obtain ⟨_, hrun⟩ := ih t hk'
    exact ⟨_, runSteps_succ hstep hrun⟩

/-- Settles O58: exchanged lanes are another value unless they are equal, and the lanes in wire order are the CRC itself. -/
theorem swappedLanesAreRejected : Obligations.SwappedLanesAreRejected :=
  ⟨fun sent => ⟨compareResult_swapped_iff sent.data, compareResult_ownReply .sector sent.data⟩,
    fun data => ⟨compareResult_swapped_iff data, compareResult_ownReply .sector data⟩⟩

/-- Settles O2, by the rule for a reset edge. -/
theorem resetEdgeWins : Obligations.ResetEdgeWins := by
  intro s e rest hi hr
  rw [step_cons hi]
  exact clockEdge_reset _ hr

/-- Settles O6: another word than the one held breaks the handshake. -/
theorem changedWordIsRefused : Obligations.ChangedWordIsRefused := by
  intro s e rest w hi hheld hr hv hne
  have broken : breaksHandshake s.held e = true := by simp [breaksHandshake, hheld, hv, hne]
  rw [step_cons hi]
  exact clockEdge_broken (s := { s with input := rest }) hr broken

end Sys2Proof.Machine
end
